-- ==== Sys2Proof/Word.lean ====
section
/-! DEFINITION. The word types of the block, 00_scope.md R6, R7 and 92 D5: a byte has 8 bits, a port
word 16 (`WORD_BITS`), an address 32 (`ADDR_BITS`), a gate 64, a command word 80. Every value is
unsigned and every extension is a zero extension (R9). -/

namespace Sys2Proof

/-- 8 bits: a port byte, a controller register, a line, an offset, an attribute byte, a character. -/
abbrev Byte := BitVec 8

/-- 16 bits: a port address, a port word, `RESULT`, `IDTR.limit`. -/
abbrev Half := BitVec 16

/-- 32 bits: an address, a vector operand, an error code. -/
abbrev Word := BitVec 32

/-- 64 bits: one gate of the table (30_encoding.md R97). -/
abbrev Gate := BitVec 64

/-- 80 bits: one command `W[79:0]` (30_encoding.md R90). -/
abbrev CommandWord := BitVec 80

end Sys2Proof
end

