-- ==== Sys2Proof/Syntax.lean ====
section
/-! DEFINITION. The 14 operations of 30_encoding.md R93, one constructor per row of
spec/opcode_table.json. Each operand has exactly the width of R92 and stands in the order of the
document's function signature (R104), so every term of this type is a legal command. -/

namespace Sys2Proof

/-- One operation of the block with its operands (R92, R93). -/
inductive Instr where
  | readByte (port : Half)
  | writeByte (port : Half) (value : Byte)
  | readWord (port : Half)
  | writeWord (port : Half) (value : Half)
  | remap (offset1 offset2 : Byte)
  | setMask (line : Byte)
  | clearMask (line : Byte)
  | sendEoi (line : Byte)
  | readRequestRegister
  | readServiceRegister
  | setDescriptor (vector handler : Word) (attributes : Byte)
  | init
  | dispatch (errorCode vector : Word)
  | keyboardDecode
  deriving DecidableEq, Repr

end Sys2Proof
end

