-- ==== Sys2Proof/WellFormed.lean ====
section
/-! DEFINITION. What is checked before a command exists. A term of `Instr` needs no check: its operand
types have exactly the widths of 30_encoding.md R92. What can be ill-formed is a line of assembler,
whose operands are unsigned numerals of any size: R104 makes a numeral that does not fit an assembly
error. (What can be ill-formed about a command WORD, R94, is the decoder's: Decode.lean.) -/

namespace Sys2Proof

/-- The 14 mnemonics of R93. -/
inductive Mnemonic where
  | readByte | writeByte | readWord | writeWord
  | remap | setMask | clearMask | sendEoi | readRequestRegister | readServiceRegister
  | setDescriptor | init
  | dispatch
  | keyboardDecode
  deriving DecidableEq, Repr

/-- The mnemonics in the order of R93's table. -/
def Mnemonic.all : List Mnemonic :=
  [.readByte, .writeByte, .readWord, .writeWord,
   .remap, .setMask, .clearMask, .sendEoi, .readRequestRegister, .readServiceRegister,
   .setDescriptor, .init, .dispatch, .keyboardDecode]

/-- The mnemonic of an operation. -/
def Instr.mnemonic : Instr → Mnemonic
  | .readByte _ => .readByte
  | .writeByte _ _ => .writeByte
  | .readWord _ => .readWord
  | .writeWord _ _ => .writeWord
  | .remap _ _ => .remap
  | .setMask _ => .setMask
  | .clearMask _ => .clearMask
  | .sendEoi _ => .sendEoi
  | .readRequestRegister => .readRequestRegister
  | .readServiceRegister => .readServiceRegister
  | .setDescriptor _ _ _ => .setDescriptor
  | .init => .init
  | .dispatch _ _ => .dispatch
  | .keyboardDecode => .keyboardDecode

/-- The widths of a mnemonic's operands (R92), in the order of R104. -/
def Mnemonic.operandWidths : Mnemonic → List Nat
  | .readByte => [16]
  | .writeByte => [16, 8]
  | .readWord => [16]
  | .writeWord => [16, 16]
  | .remap => [8, 8]
  | .setMask => [8]
  | .clearMask => [8]
  | .sendEoi => [8]
  | .readRequestRegister => []
  | .readServiceRegister => []
  | .setDescriptor => [32, 32, 8]
  | .init => []
  | .dispatch => [32, 32]
  | .keyboardDecode => []

/-- One line of assembler, R104: a mnemonic and its operands as unsigned numerals. -/
structure AsmLine where
  mnemonic : Mnemonic
  operands : List Nat
  deriving DecidableEq, Repr

/-- Each numeral fits its operand's width, and there are as many as the mnemonic takes. -/
def numeralsFit : List Nat → List Nat → Bool
  | [], [] => true
  | w :: ws, n :: ns => decide (n < 2 ^ w) && numeralsFit ws ns
  | _, _ => false

/-- R104: "a numeral that does not fit is an assembly error, not an encoding". -/
def AsmLine.wellFormed (l : AsmLine) : Bool :=
  numeralsFit l.mnemonic.operandWidths l.operands

end Sys2Proof
end

