-- ==== Sys2Proof/Decode.lean ====
section
/-! DEFINITION. The command word: opcode map, decoder and encoder (30_encoding.md R90 to R96). The
decoder is total: every 80-bit word is one operation or is refused under a name (R94, R95), and every
list of bytes is a word with its rest or is refused as truncated. -/

namespace Sys2Proof

/-- `OP`, the opcode of R93. -/
def Mnemonic.opcode : Mnemonic → Byte
  | .readByte => 0x10
  | .writeByte => 0x11
  | .readWord => 0x12
  | .writeWord => 0x13
  | .remap => 0x20
  | .setMask => 0x21
  | .clearMask => 0x22
  | .sendEoi => 0x23
  | .readRequestRegister => 0x24
  | .readServiceRegister => 0x25
  | .setDescriptor => 0x30
  | .init => 0x31
  | .dispatch => 0x40
  | .keyboardDecode => 0x50

/-- The `match` column of R93. -/
def Mnemonic.matchBits : Mnemonic → CommandWord
  | .readByte => 0x10000000000000000000
  | .writeByte => 0x11000000000000000000
  | .readWord => 0x12000000000000000000
  | .writeWord => 0x13000000000000000000
  | .remap => 0x20000000000000000000
  | .setMask => 0x21000000000000000000
  | .clearMask => 0x22000000000000000000
  | .sendEoi => 0x23000000000000000000
  | .readRequestRegister => 0x24000000000000000000
  | .readServiceRegister => 0x25000000000000000000
  | .setDescriptor => 0x30000000000000000000
  | .init => 0x31000000000000000000
  | .dispatch => 0x40000000000000000000
  | .keyboardDecode => 0x50000000000000000000

/-- The `mask` column of R93: the opcode and every reserved bit. -/
def Mnemonic.maskBits : Mnemonic → CommandWord
  | .readByte => 0xFFFFFF0000FFFFFFFFFF
  | .writeByte => 0xFFFFFF0000FFFFFFFF00
  | .readWord => 0xFFFFFF0000FFFFFFFFFF
  | .writeWord => 0xFFFFFF0000FFFF0000FF
  | .remap => 0xFFFFFFFF00FFFFFF00FF
  | .setMask => 0xFFFFFFFFFFFFFFFFFF00
  | .clearMask => 0xFFFFFFFFFFFFFFFFFF00
  | .sendEoi => 0xFFFFFFFFFFFFFFFFFF00
  | .readRequestRegister => 0xFFFFFFFFFFFFFFFFFFFF
  | .readServiceRegister => 0xFFFFFFFFFFFFFFFFFFFF
  | .setDescriptor => 0xFF000000000000000000
  | .init => 0xFFFFFFFFFFFFFFFFFFFF
  | .dispatch => 0xFF0000000000000000FF
  | .keyboardDecode => 0xFFFFFFFFFFFFFFFFFFFF

/-- R93: "a word `W` is the operation iff `W & mask = match`". -/
def Mnemonic.matchesWord (m : Mnemonic) (w : CommandWord) : Bool :=
  w &&& m.maskBits == m.matchBits

/-- `OP` = `W[79:72]` (R91). -/
def opField (w : CommandWord) : Byte := w.extractLsb' 72 8

/-- `A` = `W[71:40]` (R91). -/
def aField (w : CommandWord) : Word := w.extractLsb' 40 32

/-- `B` = `W[39:8]` (R91). -/
def bField (w : CommandWord) : Word := w.extractLsb' 8 32

/-- `C` = `W[7:0]` (R91). -/
def cField (w : CommandWord) : Byte := w.extractLsb' 0 8

/-- The operands of a word that matches `m`, each a slice of one field (R92). -/
def operandsOf (m : Mnemonic) (w : CommandWord) : Instr :=
  match m with
  | .readByte => .readByte ((aField w).setWidth 16)
  | .writeByte => .writeByte ((aField w).setWidth 16) (cField w)
  | .readWord => .readWord ((aField w).setWidth 16)
  | .writeWord => .writeWord ((aField w).setWidth 16) ((bField w).setWidth 16)
  | .remap => .remap ((aField w).setWidth 8) ((bField w).setWidth 8)
  | .setMask => .setMask (cField w)
  | .clearMask => .clearMask (cField w)
  | .sendEoi => .sendEoi (cField w)
  | .readRequestRegister => .readRequestRegister
  | .readServiceRegister => .readServiceRegister
  | .setDescriptor => .setDescriptor (bField w) (aField w) (cField w)
  | .init => .init
  | .dispatch => .dispatch (aField w) (bField w)
  | .keyboardDecode => .keyboardDecode

/-- Why a word or a list of bytes is no operation (R94; `truncated`: fewer than the ten bytes of R91). -/
inductive DecodeError where
  | unassignedOpcode (op : Byte)
  | reservedBits (m : Mnemonic)
  | truncated (bytes : Nat)
  deriving DecidableEq, Repr

/-- What the decoder answers for a word. -/
inductive Decoded where
  | ok (i : Instr)
  | illegal (why : DecodeError)
  deriving DecidableEq, Repr

/-- The mnemonic whose opcode is `op`, if one is assigned. -/
def Mnemonic.ofOpcode (op : Byte) : Option Mnemonic :=
  Mnemonic.all.find? fun m => m.opcode == op

/-- R94: an illegal word has an unassigned opcode or a reserved bit that is 1. -/
def whyIllegal (w : CommandWord) : DecodeError :=
  match Mnemonic.ofOpcode (opField w) with
  | some m => .reservedBits m
  | none => .unassignedOpcode (opField w)

/-- Decoding of one command word, R93 to R95. -/
def decodeWord (w : CommandWord) : Decoded :=
  match Mnemonic.all.find? fun m => m.matchesWord w with
  | some m => .ok (operandsOf m w)
  | none => .illegal (whyIllegal w)

/-- The operation, if the word is one. -/
def Decoded.toOption : Decoded → Option Instr
  | .ok i => some i
  | .illegal _ => none

/-- The word of ten bytes, R91: byte 0 is `W[79:72]` and byte 9 is `W[7:0]`. -/
def wordOfBytes (bs : List Byte) : CommandWord :=
  (bs.take 10).foldl (fun w b => (w <<< 8) ||| b.setWidth 80) 0

/-- The ten bytes of a word, R91. -/
def bytesOfWord (w : CommandWord) : List Byte :=
  (List.range 10).map fun k => w.extractLsb' (72 - 8 * k) 8

/-- Decoding of a stored command: the first ten bytes, and the rest of the list. -/
def decodeBytes (bs : List Byte) : Decoded × List Byte :=
  if bs.length < 10 then (.illegal (.truncated bs.length), bs)
  else (decodeWord (wordOfBytes bs), bs.drop 10)

/-- A command word from its four fields, R91. -/
def packWord (op : Byte) (a b : Word) (c : Byte) : CommandWord := op ++ a ++ b ++ c

/-- The command word of an operation: unused bits are 0 (R90, R92). -/
def encode : Instr → CommandWord
  | .readByte port => packWord 0x10 (port.setWidth 32) 0 0
  | .writeByte port value => packWord 0x11 (port.setWidth 32) 0 value
  | .readWord port => packWord 0x12 (port.setWidth 32) 0 0
  | .writeWord port value => packWord 0x13 (port.setWidth 32) (value.setWidth 32) 0
  | .remap offset1 offset2 => packWord 0x20 (offset1.setWidth 32) (offset2.setWidth 32) 0
  | .setMask line => packWord 0x21 0 0 line
  | .clearMask line => packWord 0x22 0 0 line
  | .sendEoi line => packWord 0x23 0 0 line
  | .readRequestRegister => packWord 0x24 0 0 0
  | .readServiceRegister => packWord 0x25 0 0 0
  | .setDescriptor vector handler attributes => packWord 0x30 handler vector attributes
  | .init => packWord 0x31 0 0 0
  | .dispatch errorCode vector => packWord 0x40 errorCode vector 0
  | .keyboardDecode => packWord 0x50 0 0 0

/-- The command word whose low `nbits` bits are `w` and whose other bits are 0. The opcode table counts
a command's 80 bits as one word, bit 0 the least significant (log 2). -/
def tableWord (nbits w : Nat) : CommandWord := BitVec.ofNat 80 (w % 2 ^ nbits)

/-- What the decoder reads from an instruction whose bits are `w`, numbered as spec/opcode_table.json
numbers them: the word is laid out as its ten bytes and decoded from them (log 2). -/
def decodeTableWord (nbits w : Nat) : Option Instr :=
  (decodeBytes (bytesOfWord (tableWord nbits w))).1.toOption

end Sys2Proof
end

