-- ==== Sys2Proof/Config.lean ====
section
/-! DEFINITION. What is fixed for a run, and the free values. The open parameters of 00_scope.md R8 are
the fields of `Config`, which State holds and no step writes (log 6); the unspecified reset values of
10_state.md R44 are `ResetValues`; a draw of the spec is an opaque constant applied to a counter (log 8).
The constants of R6 and R7 are in Machine/Constants.lean. -/

namespace Sys2Proof

/-- The open parameters of R8. -/
structure Config where
  /-- `IDT_BASE`, where the platform puts the table. -/
  idtBase : Word
  /-- `TRAMP[0..47]`, the trampolines' addresses. -/
  tramp : Vector Word 48
  /-- `KBD_MAP[0..127]`, the make-code table (44_keyboard_decoder.md R161). -/
  kbdMap : Vector Byte 128
  /-- `EXC_NAME[0..31]`, the exception names (60_exceptions.md R190). -/
  excName : Vector String 32
  deriving DecidableEq, Repr

/-- Which register a command-port read of a controller returns (10_state.md R33). -/
inductive RegSel where
  | irr
  | isr
  deriving DecidableEq, Repr, Inhabited

/-- The values R44 leaves unspecified at reset: `RESET_PIC` of R8, and the plain unknowns. -/
structure ResetValues where
  imrM : Byte
  imrS : Byte
  irrM : Byte
  irrS : Byte
  isrM : Byte
  isrS : Byte
  offM : Byte
  offS : Byte
  rselM : RegSel
  rselS : RegSel
  kbdData : Byte
  faultAddr : Word
  result : Half
  idtrBase : Word
  idtrLimit : Half
  deriving DecidableEq, Repr, Inhabited

/-- `draw_8()`: the n-th free value of the run when it is drawn as a byte. -/
opaque Config.freeByte : Nat → Byte

/-- `draw_16()`. -/
opaque Config.freeHalf : Nat → Half

/-- `draw_32()`. -/
opaque Config.freeWord : Nat → Word

/-- The unspecified values a RESET step leaves (log 5). -/
opaque Config.freeReset : Nat → ResetValues

end Sys2Proof
end

