-- ==== Sys2Proof/Machine/Constants.lean ====
section
/-! DEFINITION. The named constants of 00_scope.md R6 (fixed by the document) and R7 (named by the
document in words, the number from the spec's defaults: log 7), and the default open parameters (log 6).
An audit of a literal changes one line here. -/

namespace Sys2Proof.Machine

/-! ## R6 -/

/-- `IDT_ENTRIES`. -/
def idtEntries : Nat := 256
/-- `GATE_BYTES`. -/
def gateBytes : Nat := 8
/-- `IDT_ALIGN`. -/
def idtAlign : Nat := 16
/-- `POPULATED_LAST` + 1: INIT populates vectors 0 to 47. -/
def populatedCount : Nat := 48
/-- `EXC_LAST`. -/
def excLast : Word := 31
/-- `IRQ_BASE`. -/
def irqBase : Word := 32
/-- `IRQ_LAST`. -/
def irqLast : Word := 47
/-- `KBD_VECTOR`. -/
def kbdVector : Word := 33
/-- `KBD_LINE`. -/
def kbdLine : Byte := 1
/-- `PAGE_FAULT_VECTOR`. -/
def pageFaultVector : Word := 14
/-- `MASTER_OFFSET`. -/
def masterOffset : Byte := 32
/-- `SLAVE_OFFSET`. -/
def slaveOffset : Byte := 40
/-- `CASCADE_LINE`. -/
def cascadeLine : Nat := 2
/-- `PIC1_CMD`. -/
def pic1Cmd : Half := 0x0020
/-- `PIC1_DATA`. -/
def pic1Data : Half := 0x0021
/-- `PIC2_CMD`. -/
def pic2Cmd : Half := 0x00A0
/-- `PIC2_DATA`. -/
def pic2Data : Half := 0x00A1
/-- `KBD_DATA_PORT`. -/
def kbdDataPort : Half := 0x0060
/-- `KBD_STATUS_PORT`. -/
def kbdStatusPort : Half := 0x0064
/-- `KBD_EXT_PREFIX`. -/
def kbdExtPrefix : Byte := 0xE0
/-- `KBD_RELEASE_BIT`. -/
def kbdReleaseBit : Nat := 7

/-- The limit INIT loads: byte-size-minus-one of the table (R17). -/
def idtLimit : Half := 0x07FF

/-! ## R7 -/

/-- `GATE_ATTR`: "present, ring 0, 32-bit interrupt gate". PRESUMED (log 7). -/
def gateAttr : Byte := 0x8E
/-- `KERNEL_CS`. PRESUMED (log 7). -/
def kernelCs : Half := 0x0008
/-- `ICW1_INIT`. PRESUMED (log 7). -/
def icw1Init : Byte := 0x11
/-- `ICW3_MASTER`. PRESUMED (log 7). -/
def icw3Master : Byte := 0x04
/-- `ICW3_SLAVE`. PRESUMED (log 7). -/
def icw3Slave : Byte := 0x02
/-- `ICW4_8086`. PRESUMED (log 7). -/
def icw4Mode8086 : Byte := 0x01
/-- `OCW2_EOI`. PRESUMED (log 7). -/
def ocw2Eoi : Byte := 0x20
/-- `OCW3_READ_IRR`. PRESUMED (log 7). -/
def ocw3ReadIrr : Byte := 0x0A
/-- `OCW3_READ_ISR`. PRESUMED (log 7). -/
def ocw3ReadIsr : Byte := 0x0B

/-! ## Default open parameters, R8, R161, R190 (log 6) -/

/-- The ASCII codes of some characters (R161). -/
def ascii (cs : List Char) : List Byte := cs.map fun c => BitVec.ofNat 8 c.toNat

/-- The default table of R161, rows 0x to 7x. The document fixes entries 0x1E and 0x3A alone. -/
def defaultKbdRows : List Byte :=
  [0, 0x1B] ++ ascii ['1', '2', '3', '4', '5', '6', '7', '8', '9', '0', '-', '='] ++ [0x08, 0x09] ++
  ascii ['q', 'w', 'e', 'r', 't', 'y', 'u', 'i', 'o', 'p', '[', ']'] ++ [0x0A, 0] ++ ascii ['a', 's'] ++
  ascii ['d', 'f', 'g', 'h', 'j', 'k', 'l', ';'] ++ [0x27, 0x60, 0, 0x5C] ++ ascii ['z', 'x', 'c', 'v'] ++
  ascii ['b', 'n', 'm', ',', '.', '/'] ++ [0] ++ ascii ['*'] ++ [0] ++ ascii [' '] ++ List.replicate 6 0 ++
  List.replicate 10 0 ++ ascii ['-'] ++ List.replicate 3 0 ++ ascii ['+'] ++ [0] ++
  List.replicate 48 0

/-- The page fault's name, `EXC_NAME[14]` (R8); "Only row 14 is confirmed by the document" (R190; its wording:
log 21). -/
def pageFaultName : String := "Page Fault"

/-- The default names of R190, the first sixteen. -/
def defaultExcNamesLow : List String :=
  ["Divide Error", "Debug", "Non-Maskable Interrupt", "Breakpoint", "Overflow", "Bound Range Exceeded",
   "Invalid Opcode", "Device Not Available"] ++
  ["Double Fault", "Coprocessor Segment Overrun", "Invalid TSS", "Segment Not Present",
   "Stack-Segment Fault", "General Protection Fault", pageFaultName, "Reserved"]

/-- The default names of R190, the last sixteen. -/
def defaultExcNamesHigh : List String :=
  ["x87 Floating-Point Exception", "Alignment Check", "Machine Check", "SIMD Floating-Point Exception",
   "Virtualization Exception", "Control Protection Exception"] ++ List.replicate 10 "Reserved"

/-- The configuration of spec/95_test_vectors.md with the default tables. -/
def defaultConfig : Config where
  idtBase := 0x00104000
  tramp := Vector.ofFn fun v => 0x00100000 + BitVec.ofNat 32 (16 * v.val)
  kbdMap := Vector.ofFn fun i => defaultKbdRows.getD i.val 0
  excName := Vector.ofFn fun i => (defaultExcNamesLow ++ defaultExcNamesHigh).getD i.val ""

/-- The constraints of R8 on the open parameters: alignment and room of the table, distinct trampolines,
the two entries of `KBD_MAP` the document fixes, and the page fault's name in `EXC_NAME`. -/
abbrev configOk (c : Config) : Prop :=
  c.idtBase.toNat % idtAlign = 0 ∧ c.idtBase.toNat + 2047 ≤ 2 ^ 32 - 1 ∧
  c.tramp.toList.Nodup ∧ c.kbdMap[0x1E] = 0x61 ∧ c.kbdMap[0x3A] = 0 ∧
  c.excName[14] = pageFaultName

end Sys2Proof.Machine
end

