-- ==== Sys2Proof/Machine/State.lean ====
section
/-! DEFINITION. The state of the block, 10_state.md R20, as plain data; the reasons a step can stop; the
state after reset (R44, 70_reset_and_hazards.md R220). -/

namespace Sys2Proof.Machine

/-- The two chained controllers, first (`M`) and second (`S`). -/
inductive Chip where
  | master
  | slave
  deriving DecidableEq, Repr

/-- `INIT_c` (R32): operating is 0; `offset`, `cascade`, `mode` are 1, 2, 3, named by the word the next
data-port write gives. -/
inductive InitPos where
  | operating
  | offset
  | cascade
  | mode
  deriving DecidableEq, Repr

/-- One controller's registers (R28 to R33). -/
structure Pic where
  imr : Byte
  irr : Byte
  isr : Byte
  off : Byte
  init : InitPos
  rsel : RegSel
  deriving DecidableEq, Repr

/-- The descriptor-table register (R22). -/
structure Idtr where
  loaded : Bool
  base : Word
  limit : Half
  deriving DecidableEq, Repr

/-- `dir` of a port transaction (30_encoding.md R100). -/
inductive PortDir where
  | read
  | write
  deriving DecidableEq, Repr

/-- `width` and `value` of a port transaction: the value has `width` bits (R100). -/
inductive PortValue where
  | w8 (v : Byte)
  | w16 (v : Half)
  deriving DecidableEq, Repr

/-- A record of `PORT_TRACE` (R39, R100). -/
structure PortRecord where
  dir : PortDir
  port : Half
  value : PortValue
  deriving DecidableEq, Repr

/-- `name` of a diagnostic: an index into `EXC_NAME`, or `UNKNOWN` (R101). -/
inductive DiagName where
  | index (i : BitVec 5)
  | unknown
  deriving DecidableEq, Repr

/-- A record of `DIAG_OUT` (R38, R101). -/
structure DiagRecord where
  name : DiagName
  vector : Word
  errorCode : Word
  faultAddr : Option Word
  deriving DecidableEq, Repr

/-- A step of one of the six agents (00_scope.md R5): HOST's command, DEVICE's `IRQ l` (60 R180),
KEYBOARD's `KEY b` (R181), CPU's `EXC v, e, fa` (R182; `fa` counts for v = 14 alone, log 18), INTA
(R184), RESET (70 R220). -/
inductive Event where
  | command (w : CommandWord)
  | irq (line : BitVec 4)
  | key (b : Byte)
  | exc (v : BitVec 5) (e fa : Word)
  | inta
  | reset
  deriving DecidableEq, Repr

/-- Table memory: bytes by address, addresses strictly rising, no byte equal to what an unlisted address
reads as (Machine/Memory.lean, log 17). -/
abbrev Memory := List Host.Cell

/-- The state tuple of R20 (first part), what R26 and R174 imply (second part), and the model's own
fields (third part; INVENTORY.md, State). -/
structure State where
  mem : Memory
  idtr : Idtr
  vecSet : BitVec 256
  ifFlag : Bool
  halted : Bool
  result : Half
  fault : Byte
  picM : Pic
  picS : Pic
  kbdData : Byte
  faultAddr : Word
  charOut : List Byte
  diagOut : List DiagRecord
  portTrace : List PortRecord
  kbdWritten : Bool
  resultWritten : Bool
  draws : Nat
  cfg : Config
  schedule : List Event
  deriving DecidableEq, Repr

/-- Why the machine stops. -/
inductive Fault where
  /-- A command presented after `BAD_DELIVERY`: R27, "the spec defines no further behaviour of the
  block: the model treats the state as a terminal fault". Raised by every command and by an illegal
  word, never while `HALTED` = 1. Safe: the model stops where the hardware may go on (log 11). -/
  | afterBadDelivery
  /-- A delivery whose table register points outside the table (20_memory.md R65: no rule makes such an
  access). Raised by delivery (INTA, CPU). Safe, and no reachable state does it (log 14). -/
  | outsideTable
  deriving DecidableEq, Repr

/-- Why an instruction has no meaning. -/
inductive Refusal where
  /-- An instruction of the table that has no meaning yet. Raised by no arm of exec: every one of the 14
  operations has its meaning. Safe. -/
  | notModelled (mnemonic : String)
  deriving DecidableEq, Repr

/-- The state a RESET step leaves (R44, R220), for given configuration and unspecified values.
`IRR_M[2]` is 0 whatever they are (R29). -/
def State.resetWith (cfg : Config) (u : ResetValues) : State where
  mem := []
  idtr := { loaded := false, base := u.idtrBase, limit := u.idtrLimit }
  vecSet := 0
  ifFlag := false
  halted := false
  result := u.result
  fault := 0
  picM := { imr := u.imrM, irr := u.irrM &&& 0xFB, isr := u.isrM, off := u.offM,
            init := .operating, rsel := u.rselM }
  picS := { imr := u.imrS, irr := u.irrS, isr := u.isrS, off := u.offS,
            init := .operating, rsel := u.rselS }
  kbdData := u.kbdData
  faultAddr := u.faultAddr
  charOut := []
  diagOut := []
  portTrace := []
  kbdWritten := false
  resultWritten := false
  draws := 0
  cfg := cfg
  schedule := []

/-- The unspecified values of `State.reset`: zero, and `IRR` for the selects. DESIGN CHOICE (log 4). -/
def zeroResetValues : ResetValues where
  imrM := 0
  imrS := 0
  irrM := 0
  irrS := 0
  isrM := 0
  isrS := 0
  offM := 0
  offS := 0
  rselM := .irr
  rselS := .irr
  kbdData := 0
  faultAddr := 0
  result := 0
  idtrBase := 0
  idtrLimit := 0

/-- The machine right after reset (R44), with the values of log 4 and log 6 where the spec gives none. -/
def State.reset : State := State.resetWith defaultConfig zeroResetValues

end Sys2Proof.Machine
end

