-- ==== Sys2Proof/Machine/Bits.lean ====
section
/-! DEFINITION. Bit and byte helpers (00_scope.md R9, R12 to R16, R18): one bit of a byte, the lowest set
bit, halves of an address, bytes of a gate. -/

namespace Sys2Proof.Machine

/-- `1 << i` as a byte (R12). -/
def bitMask (i : Nat) : Byte := 1#8 <<< i

/-- The `set` update of R13. -/
def setBit (b : Byte) (i : Nat) : Byte := b ||| bitMask i

/-- The `clear` update of R13. -/
def clearBit (b : Byte) (i : Nat) : Byte := b &&& ~~~(bitMask i)

/-- `b` with bit `i` replaced by `v`. -/
def replaceBit (b : Byte) (i : Nat) (v : Bool) : Byte := if v then setBit b i else clearBit b i

/-- The lowest `i` in 0 to 7 with `p i`. -/
def lowestOf (p : Nat → Bool) : Option Nat := (List.range 8).find? p

/-- The lowest set bit of a byte. -/
def lowestSet (b : Byte) : Option Nat := lowestOf b.getLsbD

/-- `A[15:0]` (R14). -/
def lowHalf (a : Word) : Half := a.extractLsb' 0 16

/-- `A[31:16]` (R14). -/
def highHalf (a : Word) : Half := a.extractLsb' 16 16

/-- `{offset_high, offset_low}` (R14). -/
def joinHalves (high low : Half) : Word := high ++ low

/-- `{second, first}`, the two controllers' registers as 16 bits (R16). -/
def combine (second first : Byte) : Half := second ++ first

/-- Byte `k` of a gate, `g[8k+7:8k]` (20_memory.md R65). -/
def gateByte (g : Gate) (k : Nat) : Byte := g.extractLsb' (8 * k) 8

end Sys2Proof.Machine
end

