-- ==== Sys2Proof/Machine/Flags.lean ====
section
/-! DEFINITION. `FAULT`, `IF` and `HALTED` (10_state.md R24, R25, R27): the sticky fault codes, raising
one, and the two conditions on which agents take steps. -/

namespace Sys2Proof.Machine

/-- The codes of R27. Bit 7 is reserved and has none. -/
inductive FaultCode where
  | badVector
  | badLine
  | illegalCmd
  | reinit
  | portWidth
  | picUnmodelled
  | badDelivery
  deriving DecidableEq, Repr

/-- The bit of `FAULT` a code sets (R27). -/
def FaultCode.bit : FaultCode → Nat
  | .badVector => 0
  | .badLine => 1
  | .illegalCmd => 2
  | .reinit => 3
  | .portWidth => 4
  | .picUnmodelled => 5
  | .badDelivery => 6

/-- `raise Fault(code)`: the bit is set and stays set (R27). -/
def State.raise (c : FaultCode) (s : State) : State := { s with fault := setBit s.fault c.bit }

/-- `FAULT.<code> = 1`. -/
def State.hasFault (c : FaultCode) (s : State) : Bool := s.fault.getLsbD c.bit

/-- `HALTED = 0 and FAULT.BAD_DELIVERY = 0`: what INTA and CPU steps need (60 R182, R184) and what a
trap return tests. -/
def State.running (s : State) : Bool := !s.halted && !s.hasFault .badDelivery

/-- `IF <- v`. -/
def State.setIf (v : Bool) (s : State) : State := { s with ifFlag := v }

/-- `HALTED <- 1` (R25). -/
def State.halt (s : State) : State := { s with halted := true }

end Sys2Proof.Machine
end

