-- ==== Sys2Proof/Machine/Operands.lean ====
section
/-! DEFINITION. What an operand stands for: a line and its target (41_pic_controller.md R126), a vector
and its class (43_dispatcher.md R150), a port and the device that decodes it (20_memory.md R62), the
fields of a gate (30_encoding.md R97), a vector formed by a controller (00_scope.md R18), an entry of a
constant table (20_memory.md R76). -/

namespace Sys2Proof.Machine

/-- What `LineTarget` of R126 returns. -/
structure LineTarget where
  data : Half
  cmd : Half
  idx : Nat
  chip : Chip
  deriving DecidableEq, Repr

/-- `LineTarget(line)` of R126; `none` is its `BAD_LINE`. -/
def lineTarget (line : Byte) : Option LineTarget :=
  if 15 < line.toNat then none
  else if line.toNat < 8 then some ⟨pic1Data, pic1Cmd, line.toNat, .master⟩
  else some ⟨pic2Data, pic2Cmd, line.toNat - 8, .slave⟩

/-- The tagged variant of R150. -/
inductive VectorClass where
  | keyboardIrq
  | otherIrq (line : Byte)
  | cpuFault (vector : Word)
  deriving DecidableEq, Repr

/-- `vector - 32`, evaluated only for 32 to 47 (R15). -/
def vectorLine (vector : Word) : Byte := (vector - irqBase).setWidth 8

/-- `Classify(vector)` of R150 (R19): 33 is tested before the range. -/
def classify (vector : Word) : VectorClass :=
  if vector = kbdVector then .keyboardIrq
  else if irqBase ≤ vector ∧ vector ≤ irqLast then .otherIrq (vectorLine vector)
  else .cpuFault vector

/-- The devices of the decoded ports (R62). -/
inductive PortDevice where
  | picCmd (c : Chip)
  | picData (c : Chip)
  | kbdData
  | kbdStatus
  | undecoded
  deriving DecidableEq, Repr

/-- All 16 address bits are decoded (R62). -/
def decodePort (p : Half) : PortDevice :=
  if p = pic1Cmd then .picCmd .master
  else if p = pic1Data then .picData .master
  else if p = pic2Cmd then .picCmd .slave
  else if p = pic2Data then .picData .slave
  else if p = kbdDataPort then .kbdData
  else if p = kbdStatusPort then .kbdStatus
  else .undecoded

/-- `p` is in the decoded set `DEC` of R62. -/
def isDecoded (p : Half) : Bool := decodePort p != .undecoded

/-- A word access at `p` covers the byte ports `p` and `(p + 1) mod 65536` (R64). -/
def coversDecoded (p : Half) : Bool := isDecoded p || isDecoded (p + 1)

/-- `{handler[31:16], attributes, 0x00, KERNEL_CS, handler[15:0]}` (R97, R140). -/
def packGate (handler : Word) (attributes : Byte) : Gate :=
  highHalf handler ++ attributes ++ 0x00#8 ++ kernelCs ++ lowHalf handler

/-- `{g[63:48], g[15:0]}`, the handler address of a gate (R97). -/
def gateHandler (g : Gate) : Word := joinHalves (g.extractLsb' 48 16) (g.extractLsb' 0 16)

/-- `g[47:40]`, the attribute byte (R97). -/
def gateAttrOf (g : Gate) : Byte := g.extractLsb' 40 8

/-- `g[39:32]`, the reserved zero byte (R97). -/
def gateZeroOf (g : Gate) : Byte := g.extractLsb' 32 8

/-- `g[31:16]`, the selector (R97). -/
def gateSelectorOf (g : Gate) : Half := g.extractLsb' 16 16

/-- `P`, bit 7 of an attribute byte (R98). -/
def attrPresent (a : Byte) : Bool := a.getLsbD 7

/-- `DPL`, bits 6:5 of an attribute byte (R98). -/
def attrDpl (a : Byte) : BitVec 2 := a.extractLsb' 5 2

/-- `S`, bit 4 of an attribute byte (R98). -/
def attrS (a : Byte) : Bool := a.getLsbD 4

/-- `TYPE`, bits 3:0 of an attribute byte (R98). -/
def attrType (a : Byte) : BitVec 4 := a.extractLsb' 0 4

/-- `(OFF & 0xF8) | i` (R18). -/
def formVector (off : Byte) (i : Nat) : Byte := (off &&& 0xF8) ||| BitVec.ofNat 8 i

/-- `TRAMP[i]`; the callers keep `i` below 48 (R76). -/
def trampAt (c : Config) (i : Nat) : Word := (c.tramp[i]?).getD 0

/-- The `w` in 0 to 47 with `TRAMP[w] = h`, the lowest if the table is not injective (log 20). -/
def trampIndex (c : Config) (h : Word) : Option Nat :=
  (List.range populatedCount).find? fun w => trampAt c w == h

/-- `KBD_MAP[i]` for a 7-bit `i` (R76). -/
def keyChar (c : Config) (i : BitVec 7) : Byte := (c.kbdMap[i.toNat]?).getD 0

/-- The text of a record's `name`: `EXC_NAME[i]`, or `UNKNOWN` (R101, R190). -/
def DiagName.text (c : Config) : DiagName → String
  | .index i => (c.excName[i.toNat]?).getD ""
  | .unknown => "UNKNOWN"

/-- The name of a fatal vector, the guarded lookup of 43_dispatcher.md R152. -/
def diagName (v : Word) : DiagName := if v ≤ excLast then .index (v.setWidth 5) else .unknown

end Sys2Proof.Machine
end

