-- ==== Sys2Proof/Machine/Memory.lean ====
section
/-! DEFINITION. Table memory (10_state.md R21, 20_memory.md R65, R66): bytes by address in one canonical
form, gates of eight bytes in little-endian order, gate `v` at `IDT_BASE + 8*v`. -/

namespace Sys2Proof.Machine

/-- What an unlisted address reads as: the table is zero at reset (R21, R44; log 17). -/
def unlistedByte : Byte := 0

/-- The byte at an address. -/
def Memory.read : Memory → Nat → Byte
  | [], _ => unlistedByte
  | (k, c) :: m, a => if a = k then c else Memory.read m a

/-- No entry for an address. -/
def Memory.erase (a : Nat) : Memory → Memory
  | [] => []
  | (k, c) :: m => if a = k then Memory.erase a m else (k, c) :: Memory.erase a m

/-- An entry for an address, at its place in the order. -/
def Memory.insert (a : Nat) (b : Byte) : Memory → Memory
  | [] => [(a, b)]
  | (k, c) :: m =>
    if a < k then (a, b) :: (k, c) :: m
    else if a = k then (a, b) :: m
    else (k, c) :: Memory.insert a b m

/-- Writing a byte; a byte equal to `unlistedByte` is not listed. -/
def Memory.write (a : Nat) (b : Byte) (m : Memory) : Memory :=
  if b = unlistedByte then Memory.erase a m else Memory.insert a b m

/-- The canonical form: addresses strictly rising, no entry equal to what an unlisted address reads as. -/
abbrev Memory.wf (m : Memory) : Prop :=
  List.Pairwise (fun x y => x.1 < y.1) m ∧ ∀ x ∈ m, x.2 ≠ unlistedByte

/-- The first `n` bytes of a gate written from address `a` up, byte `k` at `a + k` (R65, R66). -/
def Memory.writeBytes (a : Nat) (g : Gate) : Nat → Memory → Memory
  | 0, m => m
  | n + 1, m => Memory.write (a + n) (gateByte g n) (Memory.writeBytes a g n m)

/-- `MemWrite(a, 8, g)` (R65). -/
def Memory.writeGate (a : Nat) (g : Gate) (m : Memory) : Memory := Memory.writeBytes a g 8 m

/-- `MemRead(a, 8)` (R65), little-endian. -/
def Memory.readGate (m : Memory) (a : Nat) : Gate :=
  m.read (a + 7) ++ m.read (a + 6) ++ m.read (a + 5) ++ m.read (a + 4) ++
  m.read (a + 3) ++ m.read (a + 2) ++ m.read (a + 1) ++ m.read a

/-- `IDT_BASE + 8*v` (R21). -/
def gateAddr (c : Config) (v : Nat) : Nat := c.idtBase.toNat + gateBytes * v

/-- `IDT[v]` (R21). -/
def State.gate (s : State) (v : Nat) : Gate := s.mem.readGate (gateAddr s.cfg v)

/-- `VEC_SET[v]` (R23). -/
def State.vecSetAt (s : State) (v : Nat) : Bool := s.vecSet.getLsbD v

/-- `IDT[v] <- g; VEC_SET[v] <- 1` (42_descriptor_table.md R140). -/
def State.writeGate (v : Nat) (g : Gate) (s : State) : State :=
  { s with mem := s.mem.writeGate (gateAddr s.cfg v) g, vecSet := s.vecSet ||| (1#256 <<< v) }

/-- The address delivery reads a gate at, `IDTR.base + 8*v` (60_exceptions.md R185). -/
def deliveryAddr (s : State) (v : Byte) : Nat := s.idtr.base.toNat + gateBytes * v.toNat

/-- The access is one R65 allows: a whole gate of the table, within `IDTR.limit` (R185: "holds for every
`v <= 255`" once the register is loaded). -/
def deliveryInTable (s : State) (v : Byte) : Bool :=
  decide (gateAddr s.cfg 0 ≤ deliveryAddr s v) &&
  decide (deliveryAddr s v + gateBytes ≤ gateAddr s.cfg idtEntries) &&
  decide ((deliveryAddr s v - gateAddr s.cfg 0) % gateBytes = 0) &&
  decide (gateBytes * v.toNat + 7 ≤ s.idtr.limit.toNat)

end Sys2Proof.Machine
end

