-- ==== Sys2Proof/Machine/Devices.lean ====
section
/-! DEFINITION. The controllers and the keyboard as devices (60_exceptions.md R170 to R176, R183), and the
draws their reads can answer (00_scope.md glossary; log 8). -/

namespace Sys2Proof.Machine

/-! ## Draws -/

/-- `draw_8()`, fresh each time. -/
def State.draw8 (s : State) : Byte × State := (Config.freeByte s.draws, { s with draws := s.draws + 1 })

/-- `draw_16()`. -/
def State.draw16 (s : State) : Half × State := (Config.freeHalf s.draws, { s with draws := s.draws + 1 })

/-- `draw_32()`. -/
def State.draw32 (s : State) : Word × State := (Config.freeWord s.draws, { s with draws := s.draws + 1 })

/-! ## Controllers -/

/-- The registers of controller `c`. -/
def State.pic (c : Chip) (s : State) : Pic :=
  match c with
  | .master => s.picM
  | .slave => s.picS

/-- The registers of controller `c` replaced. -/
def State.setPic (c : Chip) (p : Pic) (s : State) : State :=
  match c with
  | .master => { s with picM := p }
  | .slave => { s with picS := p }

/-- The start of an initialisation sequence (R170); `OFF` stays. -/
def Pic.startInit (p : Pic) : Pic :=
  { p with init := .offset, imr := 0, irr := 0, isr := 0, rsel := .irr }

/-- The non-specific end-of-interrupt: the lowest-numbered in-service bit is cleared (R170). -/
def Pic.endOfInterrupt (p : Pic) : Pic :=
  match lowestSet p.isr with
  | some i => { p with isr := clearBit p.isr i }
  | none => p

/-- No input of equal or higher priority than `i` is in service (R183). -/
def Pic.noneInService (p : Pic) (i : Nat) : Bool := (List.range (i + 1)).all fun j => !p.isr.getLsbD j

/-- Input `i` requests, given whether it is pending (R183). -/
def Pic.requests (p : Pic) (pending : Bool) (i : Nat) : Bool :=
  p.init == .operating && pending && !p.imr.getLsbD i && p.noneInService i

/-- `SlaveReq(i)` (R183). -/
def State.slaveReq (s : State) (i : Nat) : Bool := s.picS.requests (s.picS.irr.getLsbD i) i

/-- `SlaveInt()` (R183). -/
def State.slaveInt (s : State) : Bool := (lowestOf s.slaveReq).isSome

/-- `MasterReq(l)` (R183): input 2 is the second controller's request output. -/
def State.masterReq (s : State) (l : Nat) : Bool :=
  s.picM.requests (if l = cascadeLine then s.slaveInt else s.picM.irr.getLsbD l) l

/-- `PicCmdWrite(c, b)` (R170). -/
def picCmdWrite (c : Chip) (b : Byte) (s : State) : State :=
  if b = icw1Init then s.setPic c (s.pic c).startInit
  else if (s.pic c).init ≠ .operating then s.raise .picUnmodelled
  else if b = ocw2Eoi then s.setPic c (s.pic c).endOfInterrupt
  else if b = ocw3ReadIrr then s.setPic c { s.pic c with rsel := .irr }
  else if b = ocw3ReadIsr then s.setPic c { s.pic c with rsel := .isr }
  else s.raise .picUnmodelled

/-- `PicCmdRead(c)` (R171). -/
def picCmdRead (c : Chip) (s : State) : Byte × State :=
  if (s.pic c).init ≠ .operating then (s.raise .picUnmodelled).draw8
  else
    match (s.pic c).rsel, c with
    | .isr, _ => ((s.pic c).isr, s)
    | .irr, .slave => (s.picS.irr, s)
    | .irr, .master => (replaceBit s.picM.irr cascadeLine s.slaveInt, s)

/-- The third word of an initialisation sequence that states the fixed wiring (R172). -/
def cascadeWord (c : Chip) : Byte :=
  match c with
  | .master => icw3Master
  | .slave => icw3Slave

/-- `PicDataWrite(c, b)` (R172). -/
def picDataWrite (c : Chip) (b : Byte) (s : State) : State :=
  match (s.pic c).init with
  | .offset => s.setPic c { s.pic c with off := b, init := .cascade }
  | .cascade =>
    if b = cascadeWord c then s.setPic c { s.pic c with init := .mode } else s.raise .picUnmodelled
  | .mode =>
    if b = icw4Mode8086 then s.setPic c { s.pic c with init := .operating } else s.raise .picUnmodelled
  | .operating => s.setPic c { s.pic c with imr := b }

/-- `PicDataRead(c)` (R173). -/
def picDataRead (c : Chip) (s : State) : Byte × State :=
  if (s.pic c).init ≠ .operating then (s.raise .picUnmodelled).draw8 else ((s.pic c).imr, s)

/-! ## Keyboard -/

/-- `KbdDataRead()` (R174): a draw until KEYBOARD has written since reset. -/
def kbdDataRead (s : State) : Byte × State := if s.kbdWritten then (s.kbdData, s) else s.draw8

/-- `KbdStatusRead()` (R175). -/
def kbdStatusRead (s : State) : Byte × State := s.draw8

/-- `KbdPortWrite(p, v)` (R176): no change but the trace entry the primitive makes. -/
def kbdPortWrite (s : State) : State := s

end Sys2Proof.Machine
end

