-- ==== Sys2Proof/Machine/Ports.lean ====
section
/-! DEFINITION. The port access primitives of 20_memory.md R61, R63, R64: every access that is not
refused leaves one record in `PORT_TRACE`, in the order the accesses are made (R71). -/

namespace Sys2Proof.Machine

/-- `PORT_TRACE ++ r` (10_state.md R39). -/
def State.trace (r : PortRecord) (s : State) : State := { s with portTrace := s.portTrace ++ [r] }

/-- The device's answer to a byte read, before the trace entry (R61). -/
def deviceRead (p : Half) (s : State) : Byte × State :=
  match decodePort p with
  | .picCmd c => picCmdRead c s
  | .picData c => picDataRead c s
  | .kbdData => kbdDataRead s
  | .kbdStatus => kbdStatusRead s
  | .undecoded => s.draw8

/-- What the device at `p` does with a byte, after the trace entry (R61). -/
def deviceWrite (p : Half) (v : Byte) (s : State) : State :=
  match decodePort p with
  | .picCmd c => picCmdWrite c v s
  | .picData c => picDataWrite c v s
  | .kbdData => kbdPortWrite s
  | .kbdStatus => kbdPortWrite s
  | .undecoded => s

/-- `PortRead8(p)` (R61). -/
def portRead8 (p : Half) (s : State) : Byte × State :=
  ((deviceRead p s).1, (deviceRead p s).2.trace ⟨.read, p, .w8 (deviceRead p s).1⟩)

/-- `PortWrite8(p, v)` (R61). -/
def portWrite8 (p : Half) (v : Byte) (s : State) : State :=
  deviceWrite p v (s.trace ⟨.write, p, .w8 v⟩)

/-- `PortRead16(p)` (R64); `none` is the refusal, `PORT_WIDTH` and nothing else. -/
def portRead16 (p : Half) (s : State) : Option Half × State :=
  if coversDecoded p then (none, s.raise .portWidth)
  else (some s.draw16.1, s.draw16.2.trace ⟨.read, p, .w16 s.draw16.1⟩)

/-- `PortWrite16(p, v)` (R64). -/
def portWrite16 (p : Half) (v : Half) (s : State) : State :=
  if coversDecoded p then s.raise .portWidth else s.trace ⟨.write, p, .w16 v⟩

/-- Byte writes in the order listed. -/
def portWrites (ws : List (Half × Byte)) (s : State) : State :=
  ws.foldl (fun t w => portWrite8 w.1 w.2 t) s

end Sys2Proof.Machine
end

