-- ==== Sys2Proof/Machine/Ops.lean ====
section
/-! DEFINITION. The operations' shared bodies, each a total function of the state; the command step's
conditions (30_encoding.md R95); taking a trap and returning from one (60_exceptions.md R182 to R188);
the other agents' steps (R180, R181, 70_reset_and_hazards.md R220). -/

namespace Sys2Proof.Machine

/-! ## Results and outputs -/

/-- `RESULT <- v` (10_state.md R26). -/
def State.setResult (v : Half) (s : State) : State := { s with result := v, resultWritten := true }

/-- HOST reading `RESULT` (R26): the register's value, and, before one of the four reading operations has
written it since reset, where the spec leaves the value unspecified, a free value (log 10). -/
def hostReadResult (s : State) : Half × State :=
  if s.resultWritten then (s.result, s) else s.draw16

/-- `CHAR_OUT ++ c` (R37). -/
def State.emitChar (c : Byte) (s : State) : State := { s with charOut := s.charOut ++ [c] }

/-- `DIAG_OUT ++ r` (R38). -/
def State.emitDiag (r : DiagRecord) (s : State) : State := { s with diagOut := s.diagOut ++ [r] }

/-! ## The command step (R95) -/

/-- An operation run by HOST: no effect of any kind while `HALTED` = 1 (R95, R25); after `BAD_DELIVERY`
the spec defines no behaviour and the model stops (R27, log 11). -/
def hostCommand (op : State → State) (s : State) : Host.Outcome State Fault Refusal :=
  if s.halted then .next s
  else if s.hasFault .badDelivery then .fault .afterBadDelivery
  else .next (op s)

/-! ## Port operations (40_port_access.md) -/

/-- READ_BYTE (R110). -/
def readByte (port : Half) (s : State) : State :=
  (portRead8 port s).2.setResult ((portRead8 port s).1.setWidth 16)

/-- READ_WORD (R112): `RESULT` only if the access was not refused. -/
def readWord (port : Half) (s : State) : State :=
  match portRead16 port s with
  | (some v, t) => t.setResult v
  | (none, t) => t

/-! ## Controller operations (41_pic_controller.md) -/

/-- The ten writes of REMAP (R120). -/
def remapWrites (offset1 offset2 : Byte) : List (Half × Byte) :=
  [(pic1Cmd, icw1Init), (pic2Cmd, icw1Init),
   (pic1Data, offset1), (pic2Data, offset2),
   (pic1Data, icw3Master), (pic2Data, icw3Slave),
   (pic1Data, icw4Mode8086), (pic2Data, icw4Mode8086),
   (pic1Data, 0x00), (pic2Data, 0x00)]

/-- REMAP (R120). -/
def remap (offset1 offset2 : Byte) (s : State) : State := portWrites (remapWrites offset1 offset2) s

/-- SET_MASK and CLEAR_MASK (R121, R122): one read and one write of the owning data port, the bit
updated by `update`. -/
def updateMask (update : Byte → Nat → Byte) (line : Byte) (s : State) : State :=
  match lineTarget line with
  | none => s.raise .badLine
  | some t => portWrite8 t.data (update (portRead8 t.data s).1 t.idx) (portRead8 t.data s).2

/-- SEND_EOI (R123): the second controller strictly before the first, the first always. -/
def sendEoi (line : Byte) (s : State) : State :=
  match lineTarget line with
  | none => s.raise .badLine
  | some t =>
    match t.chip with
    | .slave => portWrites [(pic2Cmd, ocw2Eoi), (pic1Cmd, ocw2Eoi)] s
    | .master => portWrites [(pic1Cmd, ocw2Eoi)] s

/-- The two diagnostic reads (R124, R125): both selects, first controller read, second controller read. -/
def readPicRegisters (select : Byte) (s : State) : State :=
  let selected := portWrites [(pic1Cmd, select), (pic2Cmd, select)] s
  let first := portRead8 pic1Cmd selected
  let second := portRead8 pic2Cmd first.2
  second.2.setResult (combine second.1 first.1)

/-! ## Table operations (42_descriptor_table.md) -/

/-- SET_DESCRIPTOR (R140). -/
def setDescriptor (vector handler : Word) (attributes : Byte) (s : State) : State :=
  if 255 < vector.toNat then s.raise .badVector
  else s.writeGate vector.toNat (packGate handler attributes)

/-- `SET_DESCRIPTOR(v, TRAMP[v], GATE_ATTR)` for v = 0, 1, ..., n - 1 in ascending order (R141). -/
def populate : Nat → State → State
  | 0, s => s
  | n + 1, s =>
    setDescriptor (BitVec.ofNat 32 n) (trampAt s.cfg n) gateAttr (populate n s)

/-- The table register loaded (R141). -/
def State.loadIdtr (s : State) : State :=
  { s with idtr := { loaded := true, base := s.cfg.idtBase, limit := idtLimit } }

/-- INIT (R141). -/
def initTable (s : State) : State :=
  if s.idtr.loaded then s.raise .reinit
  else ((populate populatedCount s).loadIdtr).setIf true

/-! ## Keyboard decoder (44_keyboard_decoder.md) -/

/-- What the decoder does with the byte it read (R160). -/
def decodeScanCode (b : Byte) (s : State) : State :=
  if b = kbdExtPrefix then s
  else if b.getLsbD kbdReleaseBit then s
  else if keyChar s.cfg (b.setWidth 7) = 0 then s
  else s.emitChar (keyChar s.cfg (b.setWidth 7))

/-- KEYBOARD_DECODE (R160). -/
def keyboardDecode (s : State) : State :=
  decodeScanCode (portRead8 kbdDataPort s).1 (portRead8 kbdDataPort s).2

/-! ## Dispatcher (43_dispatcher.md) -/

/-- `Fatal(error_code, v)` (R152). -/
def fatal (errorCode v : Word) (s : State) : State :=
  (s.emitDiag { name := diagName v, vector := v, errorCode := errorCode,
                faultAddr := if v = pageFaultVector then some s.faultAddr else none }).halt

/-- DISPATCH (R151), the entry point of HOST and of delivery. -/
def dispatchVector (errorCode vector : Word) (s : State) : State :=
  match classify vector with
  | .keyboardIrq => sendEoi kbdLine (keyboardDecode s)
  | .otherIrq line => sendEoi line s
  | .cpuFault v => fatal errorCode v s

/-! ## Traps (60_exceptions.md) -/

/-- `Deliver(v, e)` (R185). -/
def deliver (v : Byte) (e : Word) (s : State) : Host.Outcome State Fault Refusal :=
  if !s.idtr.loaded then .next (s.raise .badDelivery)
  else if !deliveryInTable s v then .fault .outsideTable
  else
    let g := s.mem.readGate (deliveryAddr s v)
    if gateAttrOf g ≠ gateAttr then .next (s.raise .badDelivery)
    else
      match trampIndex s.cfg (gateHandler g) with
      | some w => .next (dispatchVector e (BitVec.ofNat 32 w) s)
      | none => .next (s.raise .badDelivery)

/-- Trap return (R188): `IF` restored, unless the block halted or the delivery failed (R182, R184). -/
def returnFromTrap (saved : Bool) (s : State) : State := if s.running then s.setIf saved else s

/-- Trap entry, R187, with the dispatch and the return inside the same step: `IF` is remembered and
cleared, the vector is delivered, `IF` is restored. -/
def takeTrap (v : Byte) (e : Word) (s : State) : Host.Outcome State Fault Refusal :=
  match deliver v e (s.setIf false) with
  | .next t => .next (returnFromTrap s.ifFlag t)
  | .fault r => .fault r
  | .refused r => .refused r

/-- `EXC v, e[, fa]` (R182). Not enabled: no step. -/
def takeException (v : BitVec 5) (e fa : Word) (s : State) : Host.Outcome State Fault Refusal :=
  if s.running then
    takeTrap (v.setWidth 8) e (if v.setWidth 32 = pageFaultVector then { s with faultAddr := fa } else s)
  else .next s

/-- The register effects of accepting first-controller input `l`, and the vector (R184). -/
def acceptMaster (l : Nat) (s : State) : Byte × State :=
  (formVector s.picM.off l,
   s.setPic .master { s.picM with irr := clearBit s.picM.irr l, isr := setBit s.picM.isr l })

/-- The register effects of accepting second-controller input `i`, and the vector (R184). -/
def acceptSlave (i : Nat) (s : State) : Byte × State :=
  (formVector s.picS.off i,
   (s.setPic .slave { s.picS with irr := clearBit s.picS.irr i, isr := setBit s.picS.isr i }).setPic
     .master { s.picM with isr := setBit s.picM.isr cascadeLine })

/-- The input INTA accepts, with its effects: the lowest requesting input of the first controller, and
behind input 2 the lowest of the second (R184). `none`: nothing requests. -/
def acceptLine (s : State) : Option (Byte × State) :=
  match lowestOf s.masterReq with
  | none => none
  | some l =>
    if l = cascadeLine then
      match lowestOf s.slaveReq with
      | some i => some (acceptSlave i s)
      | none => none
    else some (acceptMaster l s)

/-- INTA (R184). The error code is a draw. Not enabled: no step. -/
def acceptInterrupt (s : State) : Host.Outcome State Fault Refusal :=
  if s.running && s.ifFlag then
    match acceptLine s with
    | some (v, t) => takeTrap v t.draw32.1 t.draw32.2
    | none => .next s
  else .next s

/-! ## DEVICE, KEYBOARD, RESET -/

/-- `IRR <- IRR | 1 << i` of controller `c`. -/
def latchRequest (c : Chip) (i : Nat) (s : State) : State :=
  s.setPic c { s.pic c with irr := setBit (s.pic c).irr i }

/-- `IRQ l` (R180). Line 2 is no device line: no step (log 19). -/
def raiseLine (l : BitVec 4) (s : State) : State :=
  if l.toNat = cascadeLine then s
  else if l.toNat < 8 then latchRequest .master l.toNat s
  else latchRequest .slave (l.toNat - 8) s

/-- `KEY b` (R181). -/
def presentKey (b : Byte) (s : State) : State :=
  latchRequest .master kbdLine.toNat { s with kbdData := b, kbdWritten := true }

/-- RESET (70 R220): the table of R44, what it leaves unspecified being free values (log 5); the
configuration, the count of draws and the agents' schedule go on. -/
def resetStep (s : State) : State :=
  { State.resetWith s.cfg (Config.freeReset s.draws) with
    draws := s.draws + 1, schedule := s.schedule }

/-- HOST presents a command next. -/
def presentCommand (w : CommandWord) (s : State) : State :=
  { s with schedule := .command w :: s.schedule }

end Sys2Proof.Machine
end

