-- ==== Sys2Proof/Machine/DescriptorTable.lean ====
section
/-! DEFINITION. The table builder's operations as commands, 42_descriptor_table.md. -/

namespace Sys2Proof.Machine

/-- SET_DESCRIPTOR (R140). -/
def execSetDescriptor (vector handler : Word) (attributes : Byte) (s : State) :
    Host.Outcome State Fault Refusal :=
  hostCommand (setDescriptor vector handler attributes) s

/-- INIT (R141). -/
def execInit (s : State) : Host.Outcome State Fault Refusal :=
  hostCommand initTable s

end Sys2Proof.Machine
end

