-- ==== Sys2Proof/Machine/Dispatcher.lean ====
section
/-! DEFINITION. DISPATCH as a command, 43_dispatcher.md. -/

namespace Sys2Proof.Machine

/-- DISPATCH (R151). -/
def execDispatch (errorCode vector : Word) (s : State) : Host.Outcome State Fault Refusal :=
  hostCommand (dispatchVector errorCode vector) s

end Sys2Proof.Machine
end

