-- ==== Sys2Proof/Machine/KeyboardDecoder.lean ====
section
/-! DEFINITION. KEYBOARD_DECODE as a command, 44_keyboard_decoder.md. -/

namespace Sys2Proof.Machine

/-- KEYBOARD_DECODE (R160). -/
def execKeyboardDecode (s : State) : Host.Outcome State Fault Refusal :=
  hostCommand keyboardDecode s

end Sys2Proof.Machine
end

