-- ==== Sys2Proof/Machine/PicController.lean ====
section
/-! DEFINITION. The controller operations as commands, 41_pic_controller.md. -/

namespace Sys2Proof.Machine

/-- REMAP (R120). -/
def execRemap (offset1 offset2 : Byte) (s : State) : Host.Outcome State Fault Refusal :=
  hostCommand (remap offset1 offset2) s

/-- SET_MASK (R121). -/
def execSetMask (line : Byte) (s : State) : Host.Outcome State Fault Refusal :=
  hostCommand (updateMask setBit line) s

/-- CLEAR_MASK (R122). -/
def execClearMask (line : Byte) (s : State) : Host.Outcome State Fault Refusal :=
  hostCommand (updateMask clearBit line) s

/-- SEND_EOI (R123). -/
def execSendEoi (line : Byte) (s : State) : Host.Outcome State Fault Refusal :=
  hostCommand (sendEoi line) s

/-- READ_REQUEST_REGISTER (R124). -/
def execReadRequestRegister (s : State) : Host.Outcome State Fault Refusal :=
  hostCommand (readPicRegisters ocw3ReadIrr) s

/-- READ_SERVICE_REGISTER (R125). -/
def execReadServiceRegister (s : State) : Host.Outcome State Fault Refusal :=
  hostCommand (readPicRegisters ocw3ReadIsr) s

end Sys2Proof.Machine
end

