-- ==== Sys2Proof/Machine/PortAccess.lean ====
section
/-! DEFINITION. The port access primitives as commands, 40_port_access.md. -/

namespace Sys2Proof.Machine

/-- READ_BYTE (R110). -/
def execReadByte (port : Half) (s : State) : Host.Outcome State Fault Refusal :=
  hostCommand (readByte port) s

/-- WRITE_BYTE (R111). -/
def execWriteByte (port : Half) (value : Byte) (s : State) : Host.Outcome State Fault Refusal :=
  hostCommand (portWrite8 port value) s

/-- READ_WORD (R112). -/
def execReadWord (port : Half) (s : State) : Host.Outcome State Fault Refusal :=
  hostCommand (readWord port) s

/-- WRITE_WORD (R113). -/
def execWriteWord (port : Half) (value : Half) (s : State) : Host.Outcome State Fault Refusal :=
  hostCommand (portWrite16 port value) s

end Sys2Proof.Machine
end

