-- ==== Sys2Proof/Machine/Dispatch.lean ====
section
/-! DEFINITION. One arm per operation of 30_encoding.md R93, each a direct call of its meaning. -/

namespace Sys2Proof.Machine

/-- One command run to completion (00_scope.md R2, R5; 30_encoding.md R95). -/
def exec (i : Instr) (s : State) : Host.Outcome State Fault Refusal :=
  match i with
  | .readByte port => Sys2Proof.Machine.execReadByte port s
  | .writeByte port value => Sys2Proof.Machine.execWriteByte port value s
  | .readWord port => Sys2Proof.Machine.execReadWord port s
  | .writeWord port value => Sys2Proof.Machine.execWriteWord port value s
  | .remap offset1 offset2 => Sys2Proof.Machine.execRemap offset1 offset2 s
  | .setMask line => Sys2Proof.Machine.execSetMask line s
  | .clearMask line => Sys2Proof.Machine.execClearMask line s
  | .sendEoi line => Sys2Proof.Machine.execSendEoi line s
  | .readRequestRegister => Sys2Proof.Machine.execReadRequestRegister s
  | .readServiceRegister => Sys2Proof.Machine.execReadServiceRegister s
  | .setDescriptor vector handler attributes => Sys2Proof.Machine.execSetDescriptor vector handler attributes s
  | .init => Sys2Proof.Machine.execInit s
  | .dispatch errorCode vector => Sys2Proof.Machine.execDispatch errorCode vector s
  | .keyboardDecode => Sys2Proof.Machine.execKeyboardDecode s

end Sys2Proof.Machine
end

