-- ==== Sys2Proof/Machine/Agents.lean ====
section
/-! DEFINITION. The steps of the six agents (00_scope.md R5), and which of them is next. -/

namespace Sys2Proof.Machine

/-- HOST's step with a command word (30_encoding.md R95): the operation it decodes to, or `ILLEGAL_CMD`
and nothing else. -/
def hostStep (w : CommandWord) (s : State) : Host.Outcome State Fault Refusal :=
  match decodeWord w with
  | .ok i => exec i s
  | .illegal _ => hostCommand (State.raise .illegalCmd) s

/-- The step of the agent an event belongs to. -/
def agentStep (e : Event) (s : State) : Host.Outcome State Fault Refusal :=
  match e with
  | .command w => hostStep w s
  | .irq l => .next (raiseLine l s)
  | .key b => .next (presentKey b s)
  | .exc v e fa => takeException v e fa s
  | .inta => acceptInterrupt s
  | .reset => .next (resetStep s)

/-- The schedule's first entry is taken off and its agent takes its step; with an empty schedule no agent
takes one (log 1). -/
def scheduledStep (s : State) : Host.Outcome State Fault Refusal :=
  match s.schedule with
  | [] => .next s
  | e :: rest => agentStep e { s with schedule := rest }

end Sys2Proof.Machine
end

