-- ==== Sys2Proof/Machine/Step.lean ====
section
/-! DEFINITION. One step of the machine, and how a command comes to be the next step. -/

namespace Sys2Proof.Machine

/-- One step: the next agent's (Machine/Agents.lean). -/
def step (s : State) : Host.Outcome State Fault Refusal := scheduledStep s

/-- `s` with the command whose bits are `w` presented next by HOST (log 2, log 3). Nothing else is changed:
the next step runs exactly that command. -/
def State.withFetchWord (s : State) (nbits w : Nat) : State := presentCommand (tableWord nbits w) s

end Sys2Proof.Machine
end

