-- ==== Sys2Proof/Machine/Assembler.lean ====
section
/-! DEFINITION. The textual form of a command, 30_encoding.md R104: a mnemonic, a space, and the operands as
unsigned numerals, decimal or `0x` hexadecimal, separated by a comma and a space (log 22). There are no
pseudo-instructions, and events have no textual encoding. -/

namespace Sys2Proof.Machine

/-- A mnemonic as R93 spells it. -/
def mnemonicText : Mnemonic → String
  | .readByte => "READ_BYTE"
  | .writeByte => "WRITE_BYTE"
  | .readWord => "READ_WORD"
  | .writeWord => "WRITE_WORD"
  | .remap => "REMAP"
  | .setMask => "SET_MASK"
  | .clearMask => "CLEAR_MASK"
  | .sendEoi => "SEND_EOI"
  | .readRequestRegister => "READ_REQUEST_REGISTER"
  | .readServiceRegister => "READ_SERVICE_REGISTER"
  | .setDescriptor => "SET_DESCRIPTOR"
  | .init => "INIT"
  | .dispatch => "DISPATCH"
  | .keyboardDecode => "KEYBOARD_DECODE"

/-- The operation a line stands for, its operands in the order of R104; `none` is the assembly error of a
numeral that does not fit or of a wrong count. -/
def asmInstr (l : AsmLine) : Option Instr :=
  if l.wellFormed then
    match l.mnemonic, l.operands with
    | .readByte, [port] => some (.readByte (BitVec.ofNat 16 port))
    | .writeByte, [port, value] => some (.writeByte (BitVec.ofNat 16 port) (BitVec.ofNat 8 value))
    | .readWord, [port] => some (.readWord (BitVec.ofNat 16 port))
    | .writeWord, [port, value] => some (.writeWord (BitVec.ofNat 16 port) (BitVec.ofNat 16 value))
    | .remap, [o1, o2] => some (.remap (BitVec.ofNat 8 o1) (BitVec.ofNat 8 o2))
    | .setMask, [line] => some (.setMask (BitVec.ofNat 8 line))
    | .clearMask, [line] => some (.clearMask (BitVec.ofNat 8 line))
    | .sendEoi, [line] => some (.sendEoi (BitVec.ofNat 8 line))
    | .readRequestRegister, [] => some .readRequestRegister
    | .readServiceRegister, [] => some .readServiceRegister
    | .setDescriptor, [v, h, a] =>
      some (.setDescriptor (BitVec.ofNat 32 v) (BitVec.ofNat 32 h) (BitVec.ofNat 8 a))
    | .init, [] => some .init
    | .dispatch, [e, v] => some (.dispatch (BitVec.ofNat 32 e) (BitVec.ofNat 32 v))
    | .keyboardDecode, [] => some .keyboardDecode
    | _, _ => none
  else none

/-- The line that stands for an operation. -/
def instrAsm : Instr → AsmLine
  | .readByte port => ⟨.readByte, [port.toNat]⟩
  | .writeByte port value => ⟨.writeByte, [port.toNat, value.toNat]⟩
  | .readWord port => ⟨.readWord, [port.toNat]⟩
  | .writeWord port value => ⟨.writeWord, [port.toNat, value.toNat]⟩
  | .remap offset1 offset2 => ⟨.remap, [offset1.toNat, offset2.toNat]⟩
  | .setMask line => ⟨.setMask, [line.toNat]⟩
  | .clearMask line => ⟨.clearMask, [line.toNat]⟩
  | .sendEoi line => ⟨.sendEoi, [line.toNat]⟩
  | .readRequestRegister => ⟨.readRequestRegister, []⟩
  | .readServiceRegister => ⟨.readServiceRegister, []⟩
  | .setDescriptor vector handler attributes =>
    ⟨.setDescriptor, [vector.toNat, handler.toNat, attributes.toNat]⟩
  | .init => ⟨.init, []⟩
  | .dispatch errorCode vector => ⟨.dispatch, [errorCode.toNat, vector.toNat]⟩
  | .keyboardDecode => ⟨.keyboardDecode, []⟩

/-- The value of a digit, upper or lower case. -/
def digitValue (c : Char) : Option Nat :=
  if '0'.toNat ≤ c.toNat ∧ c.toNat ≤ '9'.toNat then some (c.toNat - '0'.toNat)
  else if 'A'.toNat ≤ c.toNat ∧ c.toNat ≤ 'F'.toNat then some (c.toNat - 'A'.toNat + 10)
  else if 'a'.toNat ≤ c.toNat ∧ c.toNat ≤ 'f'.toNat then some (c.toNat - 'a'.toNat + 10)
  else none

/-- Digits of a base, the most significant first, behind a value already read. -/
def readDigits (base : Nat) : Nat → List Char → Option Nat
  | n, [] => some n
  | n, c :: cs =>
    match digitValue c with
    | some d => if d < base then readDigits base (base * n + d) cs else none
    | none => none

/-- A numeral, decimal or `0x` hexadecimal, of at least one digit. -/
def readNumeral : List Char → Option Nat
  | [] => none
  | '0' :: 'x' :: c :: cs => readDigits 16 0 (c :: cs)
  | c :: cs => readDigits 10 0 (c :: cs)

/-- The pieces between separators. -/
def splitOperands : List Char → List (List Char)
  | [] => [[]]
  | ',' :: ' ' :: cs => [] :: splitOperands cs
  | c :: cs =>
    match splitOperands cs with
    | [] => [[c]]
    | x :: xs => (c :: x) :: xs

/-- The numerals of the pieces. -/
def readNumerals : List (List Char) → Option (List Nat)
  | [] => some []
  | p :: ps =>
    match readNumeral p, readNumerals ps with
    | some n, some ns => some (n :: ns)
    | _, _ => none

/-- A line of text as an assembler line. -/
def readLine (text : List Char) : Option AsmLine :=
  let name := text.takeWhile (· != ' ')
  match Mnemonic.all.find? fun m => (mnemonicText m).toList == name with
  | none => none
  | some m =>
    match text.dropWhile (· != ' ') with
    | [] => some ⟨m, []⟩
    | _ :: rest => (readNumerals (splitOperands rest)).map fun ns => ⟨m, ns⟩

/-- The command word of a line of text, if it is one. -/
def assemble (text : List Char) : Option CommandWord :=
  match readLine text with
  | some l => (asmInstr l).map encode
  | none => none

end Sys2Proof.Machine
end

