-- ==== Sys2Proof/Safety.lean ====
section
/-! DEFINITION. What claims are said in: when a command runs, what a safe state is (10_state.md R27), the
invariants of R46, the working system of 70_reset_and_hazards.md R222, and the order of the lines
(60_exceptions.md R183). -/

namespace Sys2Proof.Machine

/-- A state that has not gone wrong: R27, "a model takes `FAULT = 0` as a premise of every claim". -/
abbrev Safe (s : State) : Prop := s.fault = 0

/-- A command presented in this state runs its operation: R95's `HALTED = 0`, and no terminal fault
(R27, log 11). -/
abbrev Accepts (s : State) : Prop := s.halted = false ∧ s.hasFault .badDelivery = false

/-- Controller `c` is operating (`INIT_c = 0`, R32). -/
abbrev Operating (c : Chip) (s : State) : Prop := (s.pic c).init = .operating

/-- The command port of a controller (R62). -/
def cmdPort : Chip → Half
  | .master => pic1Cmd
  | .slave => pic2Cmd

/-- The data port of a controller (R62). -/
def dataPort : Chip → Half
  | .master => pic1Data
  | .slave => pic2Data

/-- `W8 p <- v` (30_encoding.md R100). -/
def wrote8 (p : Half) (v : Byte) : PortRecord := ⟨.write, p, .w8 v⟩

/-- `R8 p -> v` (R100). -/
def read8 (p : Half) (v : Byte) : PortRecord := ⟨.read, p, .w8 v⟩

/-- The decoded set `DEC` (20_memory.md R62). -/
def decodedPorts : List Half := [0x0020, 0x0021, 0x00A0, 0x00A1, 0x0060, 0x0064]

/-- The ten ports at which a word access is refused (R64). -/
def wordRefusedPorts : List Half :=
  [0x001F, 0x0020, 0x0021, 0x009F, 0x00A0, 0x00A1, 0x005F, 0x0060, 0x0063, 0x0064]

/-- The controller that owns a line 0 to 15 (00_scope.md R12). -/
def lineChip (line : Byte) : Chip := if line.toNat < 8 then .master else .slave

/-- The bit index of a line at its controller (R12). -/
def lineIndex (line : Byte) : Nat := line.toNat % 8

/-- A byte with its lowest set bit cleared, in arithmetic: what an end-of-interrupt leaves in service. -/
def dropLowest (b : Byte) : Byte := b &&& (b - 1)

/-- The registers a written end-of-interrupt leaves, `INIT_c` being 0. -/
def acknowledged (p : Pic) : Pic := { p with isr := dropLowest p.isr }

/-- The registers of controller `c` after the data byte `b`, inside an initialisation sequence (60_exceptions.md
R172): the offset, then the wiring word, then the mode word; a byte compared and not equal leaves them. -/
def afterInitWord (c : Chip) (b : Byte) (p : Pic) : Pic :=
  match p.init with
  | .offset => { p with off := b, init := .cascade }
  | .cascade => if b = (if c = .master then 0x04 else 0x02) then { p with init := .mode } else p
  | .mode => if b = 0x01 then { p with init := .operating } else p
  | .operating => p

/-- The register a command-port read of an operating controller answers while its select is `r` (R171): the
first controller's `IRR` shows the second's request output at bit 2. -/
def selectedByte (c : Chip) (r : RegSel) (s : State) : Byte :=
  match r, c with
  | .isr, _ => (s.pic c).isr
  | .irr, .slave => s.picS.irr
  | .irr, .master => (s.picM.irr &&& 0xFB) ||| (if s.slaveInt then 0x04 else 0x00)

/-- The characters a scan code gives (44_keyboard_decoder.md R160): none or one. -/
def decodedChars (c : Config) (b : Byte) : List Byte :=
  if b.getLsbD 7 = true then []
  else if keyChar c (b.setWidth 7) = 0 then []
  else [keyChar c (b.setWidth 7)]

/-- The byte a read of port 0x60 answers, and how many values it draws (60_exceptions.md R174). -/
def keyboardByte (s : State) : Byte := if s.kbdWritten then s.kbdData else Config.freeByte s.draws

/-- The address lies in gate `v` of the table (10_state.md R21). -/
abbrev InGate (c : Config) (v a : Nat) : Prop := gateAddr c v ≤ a ∧ a < gateAddr c (v + 1)

/-- R46 with the canonical form of memory, the reserved bit of `FAULT` (R27), what a written gate holds
(R97) and the count of diagnostics (R38). -/
structure Inv (s : State) : Prop where
  /-- Table memory is in its canonical form. -/
  memWf : s.mem.wf
  /-- Nothing outside the table is listed (R21, R65). -/
  memInTable : ∀ x ∈ s.mem, gateAddr s.cfg 0 ≤ x.1 ∧ x.1 < gateAddr s.cfg 256
  /-- R46 (a). -/
  unwritten : ∀ v < 256, s.vecSetAt v = false → s.gate v = 0
  /-- R97: the zero byte and the selector of a written gate. -/
  written : ∀ v < 256, s.vecSetAt v = true →
    gateZeroOf (s.gate v) = 0 ∧ gateSelectorOf (s.gate v) = kernelCs
  /-- R46 (b). -/
  loadedIdtr : s.idtr.loaded = true → s.idtr.base = s.cfg.idtBase ∧ s.idtr.limit = 0x07FF
  /-- R46 (c). -/
  loadedGates : s.idtr.loaded = true → ∀ v < 48, s.vecSetAt v = true
  /-- R46 (d). -/
  ifLoaded : s.ifFlag = true → s.idtr.loaded = true
  /-- R46 (e), R38. -/
  diagOne : s.diagOut.length = if s.halted then 1 else 0
  /-- R46 (f). -/
  irrCascade : s.picM.irr.getLsbD 2 = false
  /-- R27: bit 7 is reserved and reads 0. -/
  faultReserved : s.fault.getLsbD 7 = false

/-- The lines from highest to lowest priority (R183). -/
def linesByPriority : List Nat := [0, 1, 8, 9, 10, 11, 12, 13, 14, 15, 3, 4, 5, 6, 7]

/-- Line `l` may be accepted (R183): it requests at its controller, and a second-controller line also
through the first controller's input 2. -/
def lineEligible (s : State) (l : Nat) : Bool :=
  if l < 8 then s.masterReq l else s.masterReq 2 && s.slaveReq (l - 8)

/-- Line `l` is pending (R29). -/
def linePending (s : State) (l : Nat) : Bool :=
  if l < 8 then s.picM.irr.getLsbD l else s.picS.irr.getLsbD (l - 8)

/-- The gates INIT builds, and the table register it loads (R141, R143). -/
abbrev TableBuilt (s : State) : Prop :=
  s.idtr = { loaded := true, base := s.cfg.idtBase, limit := 0x07FF } ∧
  ∀ v < 48, s.gate v = packGate (trampAt s.cfg v) gateAttr

/-- The table register INIT loads (R141). -/
abbrev IdtrLoaded (s : State) : Prop := s.idtr = { loaded := true, base := s.cfg.idtBase, limit := 0x07FF }

/-- The table does not route vector `v` to the dispatcher, the three cases of R185: none loaded, a gate whose
attribute is not `GATE_ATTR`, a handler that is no trampoline. -/
abbrev Unroutable (s : State) (v : Nat) : Prop :=
  s.idtr.loaded = false ∨
  (IdtrLoaded s ∧ (gateAttrOf (s.gate v) ≠ gateAttr ∨ ∀ w < 48, trampAt s.cfg w ≠ gateHandler (s.gate v)))

/-- The table routes vector `v` to trampoline `w` (R185). -/
abbrev RoutesTo (s : State) (v w : Nat) : Prop :=
  IdtrLoaded s ∧ gateAttrOf (s.gate v) = gateAttr ∧ w < 48 ∧ trampAt s.cfg w = gateHandler (s.gate v)

/-- The working system of R222: remapped to 32 and 40, the table built, delivery enabled, nothing wrong. -/
abbrev SystemReady (s : State) : Prop :=
  configOk s.cfg ∧ Safe s ∧ s.halted = false ∧ s.ifFlag = true ∧ TableBuilt s ∧
  s.picM.off = masterOffset ∧ s.picS.off = slaveOffset ∧
  s.picM.init = .operating ∧ s.picS.init = .operating

/-- `t` differs from `s` in no field but the ones a controller or port access may change: the controllers'
registers, `FAULT`, `PORT_TRACE` and the count of draws. -/
abbrev OnlyPortsChanged (s t : State) : Prop :=
  t = { s with picM := t.picM, picS := t.picS, fault := t.fault, portTrace := t.portTrace, draws := t.draws }

end Sys2Proof.Machine
end

