-- ==== Sys2Proof/Certificates/Slice0/Obligations.lean ====
section
/-! DEFINITION. The statements for the provers, one per entry of OBLIGATIONS.json; each docstring names the
rule of spec/ it formalises. Where a statement says that an operation answers a next state, its hypotheses
are on the state and the operands alone. -/

open Sys2Proof Sys2Proof.Machine

/-! ## Encoding -/

/-- R90, R92, R93: no bit of an operation is lost by its command word. -/
def Obligations.DecodeOfEncode : Prop := ∀ i : Instr, decodeWord (encode i) = .ok i

/-- R90, R94: a word that decodes is the one word of its operation (unused bits are 0). -/
def Obligations.EncodeOfDecode : Prop := ∀ (w : CommandWord) (i : Instr), decodeWord w = .ok i → encode i = w

/-- R93: "a word `W` is the operation iff `W & mask = match`"; two rows never match one word. -/
def Obligations.DecodedIffRowMatches : Prop :=
  (∀ (w : CommandWord) (m : Mnemonic),
    w &&& m.maskBits = m.matchBits ↔ ∃ i, decodeWord w = .ok i ∧ i.mnemonic = m) ∧
  ∀ (w : CommandWord) (m n : Mnemonic),
    w &&& m.maskBits = m.matchBits → w &&& n.maskBits = n.matchBits → m = n

/-- R94: illegal exactly if the opcode is unassigned or a reserved bit is 1. -/
def Obligations.IllegalExactly : Prop :=
  ∀ w : CommandWord, (∃ why, decodeWord w = .illegal why) ↔
    (∀ m : Mnemonic, opField w ≠ m.opcode) ∨
    ∃ m : Mnemonic, opField w = m.opcode ∧ ∃ j < 72, m.maskBits.getLsbD j = true ∧ w.getLsbD j = true

/-- R91: byte 0 is `W[79:72]` and byte 9 is `W[7:0]`; ten bytes are one command whatever follows them. -/
def Obligations.CommandBytes : Prop :=
  ∀ (w : CommandWord) (rest : List Byte),
    decodeBytes (bytesOfWord w ++ rest) = (decodeWord w, rest) ∧
    ∀ k < 10, (bytesOfWord w)[k]? = some (w.extractLsb' (72 - 8 * k) 8)

/-- The example words of R110, R113, R120, R123, R140, R152 and R160, one or two of every family. -/
def Obligations.WorkedWordsDecode : Prop :=
  decodeWord 0x10000000210000000000 = .ok (.readByte 0x21) ∧
  decodeWord 0x13000003D400000E0A00 = .ok (.writeWord 0x3D4 0x0E0A) ∧
  decodeWord 0x20000000200000002800 = .ok (.remap 32 40) ∧
  decodeWord 0x2300000000000000000C = .ok (.sendEoi 12) ∧
  decodeWord 0x3000101234000000218E = .ok (.setDescriptor 33 0x00101234 0x8E) ∧
  decodeWord 0x40000000020000000E00 = .ok (.dispatch 2 14) ∧
  decodeWord 0x50000000000000000000 = .ok .keyboardDecode

/-- R104: an operation's own line assembles to it; a line assembles exactly if every numeral fits. -/
def Obligations.AssemblerLines : Prop :=
  (∀ i : Instr, asmInstr (instrAsm i) = some i) ∧
  ∀ l : AsmLine, asmInstr l = none ↔ l.wellFormed = false

/-! ## Steps -/

/-- R95, R5, R182, R184: HOST's step with a word that decodes is the operation, INTA's step the acceptance, CPU's
step the exception, each on the state with the entry taken off; that the next agent's step is the schedule's
first entry, and that an empty schedule leaves the state, is the model's choice (log 1). HOST's illegal words,
DEVICE, KEYBOARD and RESET have statements of their own (`IllegalWordRaises`, `RequestsLatched`,
`ResetFromEveryState`). -/
def Obligations.StepRunsDecoded : Prop :=
  (∀ (s : State) (w : CommandWord) (rest : List Event) (i : Instr),
    s.schedule = .command w :: rest → decodeWord w = .ok i → step s = exec i { s with schedule := rest }) ∧
  (∀ (s : State) (rest : List Event),
    s.schedule = .inta :: rest → step s = acceptInterrupt { s with schedule := rest }) ∧
  (∀ (s : State) (v : BitVec 5) (e fa : Word) (rest : List Event),
    s.schedule = .exc v e fa :: rest → step s = takeException v e fa { s with schedule := rest }) ∧
  ∀ s : State, s.schedule = [] → step s = .next s

/-- A word of the opcode table placed as the next command is what the next step runs (log 2, log 3). -/
def Obligations.FetchedWordRuns : Prop :=
  ∀ (s : State) (nbits w : Nat) (i : Instr),
    decodeTableWord nbits w = some i → step (s.withFetchWord nbits w) = exec i s

/-- R94, R95: an illegal word sets `ILLEGAL_CMD` and nothing else but takes the schedule's entry off (log 1). -/
def Obligations.IllegalWordRaises : Prop :=
  ∀ (s : State) (w : CommandWord) (rest : List Event) (why : DecodeError),
    Accepts s → s.schedule = .command w :: rest → decodeWord w = .illegal why →
    step s = .next { s with schedule := rest, fault := s.fault ||| 0x04 }

/-- R25, R95, R154 (e): while `HALTED` = 1 a command, legal or not, has no effect at all. -/
def Obligations.HaltedCommandsDoNothing : Prop :=
  ∀ s : State, s.halted = true → (∀ i : Instr, exec i s = .next s) ∧ ∀ w, hostStep w s = .next s

/-- R27 (log 11): after `BAD_DELIVERY` a command stops under a name of its own. -/
def Obligations.CommandsStopAfterBadDelivery : Prop :=
  ∀ s : State, s.halted = false → s.hasFault .badDelivery = true →
    (∀ i : Instr, exec i s = .fault .afterBadDelivery) ∧ ∀ w, hostStep w s = .fault .afterBadDelivery

/-- R182, R184 (log 12): CPU and INTA take no step while halted or after `BAD_DELIVERY`, and INTA none
while `IF` = 0 or nothing requests. -/
def Obligations.DisabledAgentsTakeNoStep : Prop :=
  ∀ s : State,
    ((s.halted = true ∨ s.hasFault .badDelivery = true) →
      (∀ v e fa, takeException v e fa s = .next s) ∧ acceptInterrupt s = .next s) ∧
    (s.ifFlag = false → acceptInterrupt s = .next s) ∧
    ((∀ l < 8, s.masterReq l = false) → acceptInterrupt s = .next s)

/-! ## Port access -/

/-- R110: READ_BYTE completes at every port, leaves one record and the byte read, and changes nothing else
but what the device's answer costs: a draw (a free value, log 8), or `PIC_UNMODELLED`. -/
def Obligations.ReadByteEveryPort : Prop :=
  ∀ (s : State) (port : Half), Accepts s →
    ∃ (b : Byte) (f : Byte) (n : Nat),
      exec (.readByte port) s = .next { s with
        result := b.setWidth 16, resultWritten := true, portTrace := s.portTrace ++ [read8 port b],
        fault := f, draws := n } ∧
      (f = s.fault ∨ f = s.fault ||| 0x20) ∧ (n = s.draws ∨ n = s.draws + 1)

/-- R110, R171, R173: the four controller ports of an operating controller. -/
def Obligations.ReadByteController : Prop :=
  ∀ (s : State) (c : Chip), Accepts s → Operating c s →
    exec (.readByte (dataPort c)) s = .next { s with
      result := (s.pic c).imr.setWidth 16, resultWritten := true,
      portTrace := s.portTrace ++ [read8 (dataPort c) (s.pic c).imr] } ∧
    ∀ b : Byte,
      ((s.pic c).rsel = .isr → b = (s.pic c).isr) →
      ((s.pic c).rsel = .irr → c = .slave → b = s.picS.irr) →
      ((s.pic c).rsel = .irr → c = .master →
        b = (s.picM.irr &&& 0xFB) ||| (if s.slaveInt then 0x04 else 0x00)) →
      exec (.readByte (cmdPort c)) s = .next { s with
        result := b.setWidth 16, resultWritten := true,
        portTrace := s.portTrace ++ [read8 (cmdPort c) b] }

/-- R63, R174, R175: the keyboard's byte once there is one; a free value at an undecoded port, at port
0x64, and at port 0x60 before the first key (draws: log 8; the bit that a key was presented: log 9). -/
def Obligations.ReadByteKeyboardAndDraws : Prop :=
  ∀ (s : State) (port : Half), Accepts s →
    (s.kbdWritten = true → exec (.readByte 0x60) s = .next { s with
      result := s.kbdData.setWidth 16, resultWritten := true,
      portTrace := s.portTrace ++ [read8 0x60 s.kbdData] }) ∧
    ((port ∉ decodedPorts ∨ port = 0x64 ∨ (port = 0x60 ∧ s.kbdWritten = false)) →
      exec (.readByte port) s = .next { s with
        result := (Config.freeByte s.draws).setWidth 16, resultWritten := true,
        portTrace := s.portTrace ++ [read8 port (Config.freeByte s.draws)], draws := s.draws + 1 })

/-- R171, R173: a read of a controller inside an initialisation sequence is a draw (log 8) and sets
`PIC_UNMODELLED`. -/
def Obligations.ReadByteInsideInit : Prop :=
  ∀ (s : State) (c : Chip) (port : Half), Accepts s → ¬Operating c s → port = cmdPort c ∨ port = dataPort c →
    exec (.readByte port) s = .next { s with
      result := (Config.freeByte s.draws).setWidth 16, resultWritten := true,
      portTrace := s.portTrace ++ [read8 port (Config.freeByte s.draws)],
      fault := s.fault ||| 0x20, draws := s.draws + 1 }

/-- R111, R63, R176: WRITE_BYTE completes at every port with one record; outside the four controller ports
it does nothing else, and at them it reaches the controllers and `PIC_UNMODELLED` alone. -/
def Obligations.WriteByteEveryPort : Prop :=
  ∀ (s : State) (port : Half) (value : Byte), Accepts s →
    (port ∉ [0x20, 0x21, 0xA0, 0xA1] →
      exec (.writeByte port value) s =
        .next { s with portTrace := s.portTrace ++ [wrote8 port value] }) ∧
    ∃ pm ps f, exec (.writeByte port value) s = .next { s with
        picM := pm, picS := ps, fault := f, portTrace := s.portTrace ++ [wrote8 port value] } ∧
      (f = s.fault ∨ f = s.fault ||| 0x20)

/-- R172, by the position in the initialisation sequence; the bytes compared are R7's defaults (log 7). -/
def Obligations.WriteByteDataPort : Prop :=
  ∀ (s t : State) (c : Chip) (b : Byte), Accepts s →
    t = { s with portTrace := s.portTrace ++ [wrote8 (dataPort c) b] } →
    exec (.writeByte (dataPort c) b) s = .next (match (s.pic c).init with
      | .operating => t.setPic c { s.pic c with imr := b }
      | .offset => t.setPic c { s.pic c with off := b, init := .cascade }
      | .cascade =>
        if b = (if c = .master then 0x04 else 0x02) then
          t.setPic c { s.pic c with init := .mode }
        else { t with fault := t.fault ||| 0x20 }
      | .mode =>
        if b = 0x01 then t.setPic c { s.pic c with init := .operating }
        else { t with fault := t.fault ||| 0x20 })

/-- R170: `ICW1_INIT` in every state; inside a sequence anything else is refused; the end-of-interrupt
clears the lowest set bit of `ISR`; the two selects; every other byte is refused. The bytes are R7's defaults
(log 7). -/
def Obligations.WriteByteCommandPort : Prop :=
  ∀ (s t : State) (c : Chip) (b : Byte), Accepts s →
    t = { s with portTrace := s.portTrace ++ [wrote8 (cmdPort c) b] } →
    exec (.writeByte (cmdPort c) b) s = .next (
      if b = 0x11 then
        t.setPic c { imr := 0, irr := 0, isr := 0, off := (s.pic c).off, init := .offset, rsel := .irr }
      else if (s.pic c).init ≠ .operating then { t with fault := t.fault ||| 0x20 }
      else if b = 0x20 then t.setPic c { s.pic c with isr := dropLowest (s.pic c).isr }
      else if b = 0x0A then t.setPic c { s.pic c with rsel := .irr }
      else if b = 0x0B then t.setPic c { s.pic c with rsel := .isr }
      else { t with fault := t.fault ||| 0x20 })

/-- R112, R64: refused at exactly the ten ports R64 derives, a draw (a free value, log 8) elsewhere. -/
def Obligations.ReadWordEveryPort : Prop :=
  ∀ (s : State) (port : Half), Accepts s →
    (port ∈ wordRefusedPorts →
      exec (.readWord port) s = .next { s with fault := s.fault ||| 0x10 }) ∧
    (port ∉ wordRefusedPorts →
      exec (.readWord port) s = .next { s with
        result := Config.freeHalf s.draws, resultWritten := true, draws := s.draws + 1,
        portTrace := s.portTrace ++ [⟨.read, port, .w16 (Config.freeHalf s.draws)⟩] })

/-- R113, R64: refused at exactly the ten ports R64 derives, one record and nothing else elsewhere. -/
def Obligations.WriteWordEveryPort : Prop :=
  ∀ (s : State) (port value : Half), Accepts s →
    (port ∈ wordRefusedPorts →
      exec (.writeWord port value) s = .next { s with fault := s.fault ||| 0x10 }) ∧
    (port ∉ wordRefusedPorts →
      exec (.writeWord port value) s = .next { s with
        portTrace := s.portTrace ++ [⟨.write, port, .w16 value⟩] })

/-! ## Controllers -/

/-- R120: the state after REMAP, whatever the state before, and its ten writes in order, in R7's default
bytes (log 7). -/
def Obligations.RemapFromEveryState : Prop :=
  ∀ (s : State) (o1 o2 : Byte), Accepts s →
    exec (.remap o1 o2) s = .next { s with
      picM := { imr := 0, irr := 0, isr := 0, off := o1, init := .operating, rsel := .irr },
      picS := { imr := 0, irr := 0, isr := 0, off := o2, init := .operating, rsel := .irr },
      portTrace := s.portTrace ++
        [wrote8 0x20 0x11, wrote8 0xA0 0x11, wrote8 0x21 o1, wrote8 0xA1 o2,
         wrote8 0x21 0x04, wrote8 0xA1 0x02, wrote8 0x21 0x01, wrote8 0xA1 0x01,
         wrote8 0x21 0x00, wrote8 0xA1 0x00] }

/-- R120 (the document's property S2): right after REMAP both diagnostic registers read as 0. -/
def Obligations.DiagnosticsZeroAfterRemap : Prop :=
  ∀ (s : State) (o1 o2 : Byte), Accepts s →
    ∃ t u v, exec (.remap o1 o2) s = .next t ∧
      exec .readRequestRegister t = .next u ∧ u.result = 0 ∧
      exec .readServiceRegister u = .next v ∧ v.result = 0

/-- R121, R122, R126, R12, R13: one bit of the owning controller's mask, one read, one write. -/
def Obligations.MaskUpdate : Prop :=
  ∀ (s : State) (line : Byte) (c : Chip) (m : Byte), Accepts s → line.toNat ≤ 15 →
    c = lineChip line → Operating c s → m = (s.pic c).imr →
    exec (.setMask line) s = .next (({ s with portTrace := s.portTrace ++
        [read8 (dataPort c) m, wrote8 (dataPort c) (m ||| (1#8 <<< lineIndex line))] }).setPic c
      { s.pic c with imr := m ||| (1#8 <<< lineIndex line) }) ∧
    exec (.clearMask line) s = .next (({ s with portTrace := s.portTrace ++
        [read8 (dataPort c) m, wrote8 (dataPort c) (m &&& ~~~(1#8 <<< lineIndex line))] }).setPic c
      { s.pic c with imr := m &&& ~~~(1#8 <<< lineIndex line) })

/-- R126: a line above 15 sets `BAD_LINE` and nothing else: no port access, no record. -/
def Obligations.BadLineRefused : Prop :=
  ∀ (s : State) (line : Byte), Accepts s → 15 < line.toNat →
    exec (.setMask line) s = .next { s with fault := s.fault ||| 0x02 } ∧
    exec (.clearMask line) s = .next { s with fault := s.fault ||| 0x02 } ∧
    exec (.sendEoi line) s = .next { s with fault := s.fault ||| 0x02 }

/-- R121, R122, R172, D41: inside an initialisation sequence the read is a draw (log 8), `PIC_UNMODELLED` is set,
and the owning controller takes the updated draw as the next word of the sequence: the offset, or the wiring or
the mode word compared (R7's defaults, log 7). Nothing else changes. -/
def Obligations.MaskUpdateInsideInit : Prop :=
  ∀ (s : State) (line : Byte) (c : Chip) (d : Byte), Accepts s → line.toNat ≤ 15 →
    c = lineChip line → ¬Operating c s → d = Config.freeByte s.draws →
    exec (.setMask line) s = .next (({ s with
        fault := s.fault ||| 0x20, draws := s.draws + 1, portTrace := s.portTrace ++
          [read8 (dataPort c) d, wrote8 (dataPort c) (d ||| (1#8 <<< lineIndex line))] }).setPic c
      (afterInitWord c (d ||| (1#8 <<< lineIndex line)) (s.pic c))) ∧
    exec (.clearMask line) s = .next (({ s with
        fault := s.fault ||| 0x20, draws := s.draws + 1, portTrace := s.portTrace ++
          [read8 (dataPort c) d, wrote8 (dataPort c) (d &&& ~~~(1#8 <<< lineIndex line))] }).setPic c
      (afterInitWord c (d &&& ~~~(1#8 <<< lineIndex line)) (s.pic c)))

/-- R13, R122, C1: setting twice is setting once, and so is clearing, from every operating state; set then clear leaves the line's bit 0
and every other bit as before, which is the original mask exactly if the bit was 0. -/
def Obligations.SetThenClearMask : Prop :=
  ∀ (s : State) (line : Byte) (c : Chip), Accepts s → line.toNat ≤ 15 → c = lineChip line → Operating c s →
    ∃ t u v w, exec (.setMask line) s = .next t ∧ exec (.setMask line) t = .next u ∧
      u.pic c = t.pic c ∧ (t.pic c).imr.getLsbD (lineIndex line) = true ∧
      exec (.clearMask line) t = .next v ∧ exec (.clearMask line) v = .next w ∧ w.pic c = v.pic c ∧
      (∀ j < 8, (v.pic c).imr.getLsbD j =
        (decide (j ≠ lineIndex line) && (s.pic c).imr.getLsbD j)) ∧
      ((v.pic c).imr = (s.pic c).imr ↔ (s.pic c).imr.getLsbD (lineIndex line) = false) ∧
      ∃ x y, exec (.clearMask line) s = .next x ∧ exec (.clearMask line) x = .next y ∧ y.pic c = x.pic c

/-- R123, R170: for every line 0 to 15 and every controller state, the second controller is written strictly
before the first, the first always; a written controller loses its lowest in-service bit, or, inside an
initialisation sequence, refuses with `PIC_UNMODELLED`. The byte is R7's default (log 7). -/
def Obligations.SendEoiEveryLine : Prop :=
  ∀ (s : State) (line : Byte), Accepts s → line.toNat ≤ 15 →
    (line.toNat < 8 → exec (.sendEoi line) s = .next { s with
      picM := if Operating .master s then acknowledged s.picM else s.picM,
      fault := if Operating .master s then s.fault else s.fault ||| 0x20,
      portTrace := s.portTrace ++ [wrote8 0x20 0x20] }) ∧
    (8 ≤ line.toNat → exec (.sendEoi line) s = .next { s with
      picM := if Operating .master s then acknowledged s.picM else s.picM,
      picS := if Operating .slave s then acknowledged s.picS else s.picS,
      fault := if Operating .master s ∧ Operating .slave s then s.fault else s.fault ||| 0x20,
      portTrace := s.portTrace ++ [wrote8 0xA0 0x20, wrote8 0x20 0x20] })

/-- R124, R125, R16, R171: both selects, both reads, `RESULT` = second then first; the select bytes are R7's
defaults (log 7). -/
def Obligations.DiagnosticReads : Prop :=
  ∀ (s : State) (m : Byte), Accepts s → Operating .master s → Operating .slave s →
    m = (s.picM.irr &&& 0xFB) ||| (if s.slaveInt then 0x04 else 0x00) →
    exec .readRequestRegister s = .next { s with
      picM := { s.picM with rsel := .irr }, picS := { s.picS with rsel := .irr },
      result := s.picS.irr ++ m, resultWritten := true,
      portTrace := s.portTrace ++
        [wrote8 0x20 0x0A, wrote8 0xA0 0x0A, read8 0x20 m, read8 0xA0 s.picS.irr] } ∧
    exec .readServiceRegister s = .next { s with
      picM := { s.picM with rsel := .isr }, picS := { s.picS with rsel := .isr },
      result := s.picS.isr ++ s.picM.isr, resultWritten := true,
      portTrace := s.portTrace ++
        [wrote8 0x20 0x0B, wrote8 0xA0 0x0B, read8 0x20 s.picM.isr, read8 0xA0 s.picS.isr] }

/-- R124, R125, R170, R171: with a controller inside an initialisation sequence both operations set
`PIC_UNMODELLED` and no other bit, make their four accesses, and write `RESULT` from what was read: an operating
controller's selected register (and its select stays), a draw (log 8) for one inside its sequence, whose
registers stay. The select bytes are R7's defaults (log 7). -/
def Obligations.DiagnosticReadsInsideInit : Prop :=
  ∀ (s : State) (n : Nat) (drawM drawS mr mi vr vi : Byte),
    Accepts s → ¬(Operating .master s ∧ Operating .slave s) →
    n = (if Operating .master s then s.draws else s.draws + 1) →
    drawM = Config.freeByte s.draws → drawS = Config.freeByte n →
    mr = (if Operating .master s then selectedByte .master .irr s else drawM) →
    mi = (if Operating .master s then s.picM.isr else drawM) →
    vr = (if Operating .slave s then s.picS.irr else drawS) →
    vi = (if Operating .slave s then s.picS.isr else drawS) →
    exec .readRequestRegister s = .next { s with
      picM := if Operating .master s then { s.picM with rsel := .irr } else s.picM,
      picS := if Operating .slave s then { s.picS with rsel := .irr } else s.picS,
      fault := s.fault ||| 0x20, draws := if Operating .slave s then n else n + 1,
      result := vr ++ mr, resultWritten := true,
      portTrace := s.portTrace ++ [wrote8 0x20 0x0A, wrote8 0xA0 0x0A, read8 0x20 mr, read8 0xA0 vr] } ∧
    exec .readServiceRegister s = .next { s with
      picM := if Operating .master s then { s.picM with rsel := .isr } else s.picM,
      picS := if Operating .slave s then { s.picS with rsel := .isr } else s.picS,
      fault := s.fault ||| 0x20, draws := if Operating .slave s then n else n + 1,
      result := vi ++ mi, resultWritten := true,
      portTrace := s.portTrace ++ [wrote8 0x20 0x0B, wrote8 0xA0 0x0B, read8 0x20 mi, read8 0xA0 vi] }

/-- R225: "the end state is the same in either order"; only `PORT_TRACE` tells the two acknowledgments'
order (the byte 0x20 is R7's default, log 7). -/
def Obligations.EoiOrderOnlyInTrace : Prop :=
  ∀ (s : State) (p : List PortRecord),
    { portWrites [(0xA0, 0x20), (0x20, 0x20)] s with portTrace := p } =
      { portWrites [(0x20, 0x20), (0xA0, 0x20)] s with portTrace := p } ∧
    (portWrites [(0xA0, 0x20), (0x20, 0x20)] s).portTrace =
      s.portTrace ++ [wrote8 0xA0 0x20, wrote8 0x20 0x20] ∧
    (portWrites [(0x20, 0x20), (0xA0, 0x20)] s).portTrace =
      s.portTrace ++ [wrote8 0x20 0x20, wrote8 0xA0 0x20]

/-- R183, R28, R225: an input requests exactly if its controller is operating, the input is pending and not
masked (a mask bit that is 1 disables it), and no input of equal or higher priority of that controller is in
service; the first controller's input 2 is pending exactly if some input of the second requests. A line of the
second controller is eligible exactly if both its input and the first's input 2 request. So an in-service input
blocks itself and every lower-priority input, and behind the first's input 2 the whole second controller. -/
def Obligations.InServiceBlocks : Prop :=
  (∀ s : State,
    (∀ i < 8, s.slaveReq i = true ↔ s.picS.init = .operating ∧ s.picS.irr.getLsbD i = true ∧
      s.picS.imr.getLsbD i = false ∧ ∀ j ≤ i, s.picS.isr.getLsbD j = false) ∧
    (s.slaveInt = true ↔ ∃ i < 8, s.slaveReq i = true) ∧
    (∀ l < 8, l ≠ 2 → (s.masterReq l = true ↔ s.picM.init = .operating ∧ s.picM.irr.getLsbD l = true ∧
      s.picM.imr.getLsbD l = false ∧ ∀ j ≤ l, s.picM.isr.getLsbD j = false)) ∧
    (s.masterReq 2 = true ↔ s.picM.init = .operating ∧ s.slaveInt = true ∧
      s.picM.imr.getLsbD 2 = false ∧ ∀ j ≤ 2, s.picM.isr.getLsbD j = false) ∧
    ∀ l < 8, lineEligible s l = s.masterReq l ∧ lineEligible s (8 + l) = (s.masterReq 2 && s.slaveReq l)) ∧
  ∀ (s : State) (i j : Nat), i ≤ j → j < 8 →
    (s.picS.isr.getLsbD i = true → s.slaveReq j = false) ∧
    (s.picM.isr.getLsbD i = true → s.masterReq j = false) ∧
    (s.picM.isr.getLsbD 2 = true → ∀ l, 8 ≤ l → lineEligible s l = false)

/-! ## Table -/

/-- R140, R23: one gate written unconditionally, `VEC_SET` of it set, every other gate and byte as before,
nothing else changed. `KERNEL_CS` is R7's default (log 7). -/
def Obligations.SetDescriptorWritesOneGate : Prop :=
  ∀ (s : State) (vector handler : Word) (attributes : Byte), Accepts s → vector.toNat ≤ 255 →
    ∃ t, exec (.setDescriptor vector handler attributes) s = .next t ∧
      t = { s with mem := t.mem, vecSet := t.vecSet } ∧
      t.gate vector.toNat =
        handler.extractLsb' 16 16 ++ attributes ++ 0x00#8 ++ 0x0008#16 ++ handler.extractLsb' 0 16 ∧
      (∀ v, v ≠ vector.toNat → t.gate v = s.gate v) ∧
      (∀ v < 256, t.vecSetAt v = (decide (v = vector.toNat) || s.vecSetAt v)) ∧
      ∀ a, ¬InGate s.cfg vector.toNat a → t.mem.read a = s.mem.read a

/-- R142, the read-back law (the document's property S1). -/
def Obligations.GateReadBack : Prop :=
  ∀ (s : State) (vector handler : Word) (attributes : Byte), Accepts s → vector.toNat ≤ 255 →
    ∃ t, exec (.setDescriptor vector handler attributes) s = .next t ∧
      gateHandler (t.gate vector.toNat) = handler ∧
      gateSelectorOf (t.gate vector.toNat) = kernelCs ∧
      gateZeroOf (t.gate vector.toNat) = 0 ∧
      gateAttrOf (t.gate vector.toNat) = attributes

/-- R97, R66: the eight bytes of a written gate, lowest address first; the selector is R7's default (log 7). -/
def Obligations.GateByteImage : Prop :=
  ∀ (s : State) (vector handler : Word) (attributes : Byte), Accepts s → vector.toNat ≤ 255 →
    ∃ t, exec (.setDescriptor vector handler attributes) s = .next t ∧
      (List.range 8).map (fun k => t.mem.read (s.cfg.idtBase.toNat + 8 * vector.toNat + k)) =
        [handler.extractLsb' 0 8, handler.extractLsb' 8 8, 0x08, 0x00, 0x00, attributes,
         handler.extractLsb' 16 8, handler.extractLsb' 24 8]

/-- R140: a vector above 255 sets `BAD_VECTOR` and writes nothing. -/
def Obligations.BadVectorRefused : Prop :=
  ∀ (s : State) (vector handler : Word) (attributes : Byte), Accepts s → 255 < vector.toNat →
    exec (.setDescriptor vector handler attributes) s = .next { s with fault := s.fault ||| 0x01 }

/-- R141, R143: gates 0 to 47 built, 48 to 255 as they were, the table register loaded, `IF` = 1, nothing else
changed; the attribute byte is R7's default (log 7). -/
def Obligations.InitBuildsTable : Prop :=
  ∀ s : State, Accepts s → s.idtr.loaded = false →
    ∃ t, exec .init s = .next t ∧
      t = { s with mem := t.mem, vecSet := t.vecSet, ifFlag := true,
                   idtr := { loaded := true, base := s.cfg.idtBase, limit := 0x07FF } } ∧
      (∀ v < 256, t.gate v = if v < 48 then packGate (trampAt s.cfg v) 0x8E else s.gate v) ∧
      (∀ v < 256, t.vecSetAt v = (decide (v < 48) || s.vecSetAt v)) ∧
      ∀ a, ¬(gateAddr s.cfg 0 ≤ a ∧ a < gateAddr s.cfg 48) → t.mem.read a = s.mem.read a

/-- R141: a second INIT sets `REINIT` and does nothing else. -/
def Obligations.SecondInitRefused : Prop :=
  ∀ s : State, Accepts s → s.idtr.loaded = true → exec .init s = .next { s with fault := s.fault ||| 0x08 }

/-! ## Dispatcher and keyboard decoder -/

/-- R150: the three classes, over the vector as a number, with the action the document's table gives each;
the error code and the state take no part in the classification. -/
def Obligations.ClassifyEveryVector : Prop :=
  ∀ (v e : Word) (s : State),
    (v.toNat = 33 → classify v = .keyboardIrq ∧ dispatchVector e v s = sendEoi 1 (keyboardDecode s)) ∧
    (32 ≤ v.toNat → v.toNat ≤ 47 → v.toNat ≠ 33 →
      classify v = .otherIrq (BitVec.ofNat 8 (v.toNat - 32)) ∧
      dispatchVector e v s = sendEoi (BitVec.ofNat 8 (v.toNat - 32)) s) ∧
    (v.toNat < 32 ∨ 47 < v.toNat → classify v = .cpuFault v ∧ dispatchVector e v s = fatal e v s)

/-- R151, R154 (a), S6: vector 33 is one keyboard decode and then one acknowledgment of line 1 (the
acknowledgment byte: log 7; a draw before the first key: log 8, log 9). -/
def Obligations.DispatchKeyboard : Prop :=
  ∀ (s : State) (e : Word), Accepts s →
    exec (.dispatch e 33) s = .next { s with
      portTrace := s.portTrace ++ [read8 0x60 (keyboardByte s), wrote8 0x20 0x20],
      charOut := s.charOut ++ decodedChars s.cfg (keyboardByte s),
      draws := if s.kbdWritten then s.draws else s.draws + 1,
      picM := if Operating .master s then acknowledged s.picM else s.picM,
      fault := if Operating .master s then s.fault else s.fault ||| 0x20 }

/-- R151, R154 (b), (c), S7: any other device vector is exactly the acknowledgment of line `vector - 32`
(the acknowledgment byte is R7's default, log 7). -/
def Obligations.DispatchOtherLine : Prop :=
  ∀ (s : State) (e v : Word), Accepts s → 32 ≤ v.toNat → v.toNat ≤ 47 → v.toNat ≠ 33 →
    exec (.dispatch e v) s = exec (.sendEoi (BitVec.ofNat 8 (v.toNat - 32))) s ∧
    ∃ t, exec (.dispatch e v) s = .next t ∧ OnlyPortsChanged s t ∧
      t.portTrace = s.portTrace ++
        (if v.toNat < 40 then [wrote8 0x20 0x20] else [wrote8 0xA0 0x20, wrote8 0x20 0x20])

/-- R151, R152, R154 (d): every other vector appends one diagnostic and halts; no port access. -/
def Obligations.DispatchFatal : Prop :=
  ∀ (s : State) (e v : Word), Accepts s → v.toNat < 32 ∨ 47 < v.toNat →
    exec (.dispatch e v) s = .next { s with
      halted := true,
      diagOut := s.diagOut ++
        [{ name := if v.toNat < 32 then .index (v.setWidth 5) else .unknown, vector := v, errorCode := e,
           faultAddr := if v.toNat = 14 then some s.faultAddr else none }] }

/-- R160, R162: exactly one read of port 0x60; a character exactly if the code is a mapped make code (a draw
before the first key: log 8, log 9). -/
def Obligations.KeyboardDecodeEffect : Prop :=
  ∀ s : State, Accepts s →
    exec .keyboardDecode s = .next { s with
      portTrace := s.portTrace ++ [read8 0x60 (keyboardByte s)],
      charOut := s.charOut ++ decodedChars s.cfg (keyboardByte s),
      draws := if s.kbdWritten then s.draws else s.draws + 1 }

/-- R162, S5: with the two fixed entries of the table, 0x1E gives 'a', and 0x9E, 0xE0, 0x3A give nothing. -/
def Obligations.DocumentedKeys : Prop :=
  ∀ s : State, Accepts s → configOk s.cfg → s.kbdWritten = true →
    ∃ t, exec .keyboardDecode s = .next t ∧
      (s.kbdData = 0x1E → t.charOut = s.charOut ++ [0x61]) ∧
      (s.kbdData ∈ [0x9E, 0xE0, 0x3A] → t.charOut = s.charOut)

/-! ## Interrupts, exceptions, reset -/

/-- R180, R181: a raised line and a presented key are latched in every state; line 2 is no device line, and
an entry for it does nothing (the model's choice, log 19). -/
def Obligations.RequestsLatched : Prop :=
  ∀ (s : State) (rest : List Event),
    (∀ l : BitVec 4, s.schedule = .irq l :: rest → step s = .next (
      if l.toNat = 2 then { s with schedule := rest }
      else if l.toNat < 8 then
        { s with schedule := rest, picM := { s.picM with irr := s.picM.irr ||| (1#8 <<< l.toNat) } }
      else
        { s with schedule := rest, picS := { s.picS with irr := s.picS.irr ||| (1#8 <<< (l.toNat - 8)) } })) ∧
    ∀ b : Byte, s.schedule = .key b :: rest → step s = .next { s with
      schedule := rest, kbdData := b, kbdWritten := true,
      picM := { s.picM with irr := s.picM.irr ||| 0x02 } }

/-- R220, R44: RESET is enabled in every state and leaves every specified value; configuration and the rest
of the schedule stay (log 5). -/
def Obligations.ResetFromEveryState : Prop :=
  ∀ (s : State) (rest : List Event), s.schedule = .reset :: rest →
    ∃ t, step s = .next t ∧ (∀ v, t.gate v = 0) ∧ t.mem = [] ∧ t.idtr.loaded = false ∧
      (∀ v < 256, t.vecSetAt v = false) ∧ t.ifFlag = false ∧ t.halted = false ∧ t.fault = 0 ∧
      t.picM.init = .operating ∧ t.picS.init = .operating ∧ t.picM.irr.getLsbD 2 = false ∧
      t.charOut = [] ∧ t.diagOut = [] ∧ t.portTrace = [] ∧ t.kbdWritten = false ∧
      t.resultWritten = false ∧ t.cfg = s.cfg ∧ t.schedule = rest

/-- R182, R185, R189, R152: with the gates INIT builds, every processor exception ends in the fatal path:
one diagnostic with its vector and error code, and for the page fault the address (`fa` counts for no other
vector, log 18); `IF` is not restored. -/
def Obligations.ExceptionsAreFatal : Prop :=
  ∀ (s : State) (v : BitVec 5) (e fa : Word), Accepts s → configOk s.cfg → TableBuilt s →
    takeException v e fa s = .next { s with
      faultAddr := if v.toNat = 14 then fa else s.faultAddr, ifFlag := false, halted := true,
      diagOut := s.diagOut ++ [{ name := .index v, vector := v.setWidth 32, errorCode := e,
                                 faultAddr := if v.toNat = 14 then some fa else none }] }

/-- R185, R182: no table loaded, a gate whose attribute is not `GATE_ATTR`, or a handler that is no
trampoline: `BAD_DELIVERY`, and `IF` stays cleared (what such a step leaves: log 13; `GATE_ATTR`: log 7). -/
def Obligations.BadDeliveryCases : Prop :=
  ∀ (s : State) (v : BitVec 5) (e fa : Word), Accepts s → Unroutable s v.toNat →
    takeException v e fa s = .next { s with
      faultAddr := if v.toNat = 14 then fa else s.faultAddr, ifFlag := false, fault := s.fault ||| 0x40 }

/-- R183, R184: INTA accepts the first eligible line in the order 0, 1, 8 to 15, 3 to 7: its `IRR` bit is
cleared, its `ISR` bit set (for a second-controller line also the first's bit 2), and its vector is the top
five bits of the offset with the input number (not the relaxation R184 allows, log 16). -/
def Obligations.AcceptedLineIsFirst : Prop :=
  ∀ s : State, acceptLine s = match linesByPriority.find? (lineEligible s) with
    | none => none
    | some l =>
      if l < 8 then
        some ((s.picM.off &&& 0xF8) ||| BitVec.ofNat 8 l,
          { s with picM := { s.picM with irr := s.picM.irr &&& ~~~(1#8 <<< l),
                                         isr := s.picM.isr ||| (1#8 <<< l) } })
      else
        some ((s.picS.off &&& 0xF8) ||| BitVec.ofNat 8 (l - 8),
          { s with picS := { s.picS with irr := s.picS.irr &&& ~~~(1#8 <<< (l - 8)),
                                         isr := s.picS.isr ||| (1#8 <<< (l - 8)) },
                   picM := { s.picM with isr := s.picM.isr ||| 0x04 } })

/-- R182, R184, R185, R151: what one INTA step, and one routed exception, leaves in every state that enables it.
INTA: the accepted vector `v` is delivered with `IF` cleared and a draw for its error code (log 8); a table that
does not route `v` sets `BAD_DELIVERY`, and `IF` = 0 and the effects of the acceptance stay (log 13; `GATE_ATTR`:
log 7). A routed vector is the dispatch of its trampoline's own number `w`, which a rewritten gate may make
another than the vector: below 32 the fatal path, `IF` not restored, else an acknowledgment, `IF` as it was (one
step, log 15; which line, log 16; an exception's address counts for vector 14 alone, log 18). -/
def Obligations.TrapDeliveryCases : Prop :=
  (∀ (s a t : State) (v : Byte) (e : Word), Accepts s → configOk s.cfg → s.ifFlag = true →
    acceptLine s = some (v, a) → e = Config.freeWord s.draws →
    t = { a with ifFlag := false, draws := s.draws + 1 } →
    (Unroutable s v.toNat → acceptInterrupt s = .next { t with fault := s.fault ||| 0x40 }) ∧
    (∀ w < 32, RoutesTo s v.toNat w → acceptInterrupt s = .next { t with
      halted := true,
      diagOut := s.diagOut ++ [{ name := .index (BitVec.ofNat 5 w), vector := BitVec.ofNat 32 w, errorCode := e,
                                 faultAddr := if w = 14 then some s.faultAddr else none }] }) ∧
    ∀ w, 32 ≤ w → RoutesTo s v.toNat w →
      ∃ u, exec (.dispatch e (BitVec.ofNat 32 w)) t = .next u ∧ u.halted = false ∧
        acceptInterrupt s = .next { u with ifFlag := true }) ∧
  ∀ (s t : State) (v : BitVec 5) (e fa : Word) (w : Nat), Accepts s → configOk s.cfg →
    RoutesTo s v.toNat w →
    t = { s with faultAddr := if v.toNat = 14 then fa else s.faultAddr, ifFlag := false } →
    (w < 32 → takeException v e fa s = .next { t with
      halted := true,
      diagOut := s.diagOut ++ [{ name := .index (BitVec.ofNat 5 w), vector := BitVec.ofNat 32 w, errorCode := e,
                                 faultAddr := if w = 14 then some t.faultAddr else none }] }) ∧
    (32 ≤ w → ∃ u, exec (.dispatch e (BitVec.ofNat 32 w)) t = .next u ∧ u.halted = false ∧
      takeException v e fa s = .next { u with ifFlag := s.ifFlag })

/-- R184, R185, R151, R222: in the working system one INTA step services exactly the first eligible line:
the request is consumed, the acknowledgments leave both service registers as they were, the trace shows the
writes in order (after the keyboard read for line 1), nothing is wrong and the system is ready again. One step
(log 15), the first eligible line (log 16), the acknowledgment byte R7's default (log 7). -/
def Obligations.WorkingSystemServicesLine : Prop :=
  ∀ (s : State) (l : Nat), SystemReady s → linesByPriority.find? (lineEligible s) = some l →
    ∃ t, acceptInterrupt s = .next t ∧ SystemReady t ∧
      linePending t l = false ∧ (∀ k < 16, k ≠ l → linePending t k = linePending s k) ∧
      t.picM.isr = s.picM.isr ∧ t.picS.isr = s.picS.isr ∧ t.diagOut = s.diagOut ∧
      (∃ b : Byte, t.charOut = s.charOut ++ (if l = 1 then decodedChars s.cfg b else []) ∧
        (s.kbdWritten = true → b = s.kbdData) ∧
        t.portTrace = s.portTrace ++ (if l = 1 then [read8 0x60 b] else []) ++
          (if 8 ≤ l then [wrote8 0xA0 0x20] else []) ++ [wrote8 0x20 0x20])

/-! ## The whole machine -/

/-- R46, R27, R38, R97: the invariants hold at reset, with the values of log 4 where the spec gives none. -/
def Obligations.InvariantsAtReset : Prop := Inv State.reset

/-- R46, R27, R38, R97: every step of every agent keeps the invariants. -/
def Obligations.InvariantsKept : Prop := ∀ s t : State, Inv s → step s = .next t → Inv t

/-- No step is refused, and under the invariants a step stops on nothing but a command after `BAD_DELIVERY`
(R27; log 11, log 14). -/
def Obligations.StepsStopOnlyAfterBadDelivery : Prop :=
  (∀ s r, step s ≠ .refused r) ∧
  ∀ s : State, Inv s → ∀ r, step s = .fault r →
    r = .afterBadDelivery ∧ s.halted = false ∧ s.hasFault .badDelivery = true ∧
    ∃ w, s.schedule.head? = some (.command w)

/-- R27: a `FAULT` bit, once set, is cleared by RESET alone; no step sets bit 7. -/
def Obligations.FaultBitsSticky : Prop :=
  ∀ s t : State, step s = .next t → s.schedule.head? ≠ some .reset →
    (∀ j < 8, s.fault.getLsbD j = true → t.fault.getLsbD j = true) ∧
    t.fault.getLsbD 7 = s.fault.getLsbD 7

/-- R25, R197: from `HALTED` = 1 every step but RESET leaves everything but the request registers, the
keyboard's byte and the bit that one was presented (log 9). Every entry of the schedule still answers a next
state with the entry taken off, INTA's and CPU's too, whose step the rule denies (the model's choice, log 1 and
log 12). -/
def Obligations.HaltedIsTerminal : Prop :=
  ∀ s : State, s.halted = true → s.schedule.head? ≠ some .reset →
    ∃ t, step s = .next t ∧
      t = { s with picM := { s.picM with irr := t.picM.irr }, picS := { s.picS with irr := t.picS.irr },
                   kbdData := t.kbdData, kbdWritten := t.kbdWritten, schedule := s.schedule.tail }

/-- R37, R38, R39, R42: no step but RESET removes from a history; a step adds at most one character and one
diagnostic; no step at all changes the configuration. -/
def Obligations.HistoriesGrow : Prop :=
  ∀ s t : State, step s = .next t → t.cfg = s.cfg ∧ (s.schedule.head? ≠ some .reset →
    s.portTrace <+: t.portTrace ∧
    (t.charOut = s.charOut ∨ ∃ c, c ≠ 0 ∧ t.charOut = s.charOut ++ [c]) ∧
    (t.diagOut = s.diagOut ∨ ∃ r, t.diagOut = s.diagOut ++ [r]))

/-- R21, R24, R25, R26, R29, R35 to R38, R42: what each command leaves alone (the schedule: log 1; the bits that
a byte was presented and that `RESULT` was written: log 9, log 10). -/
def Obligations.CommandFootprint : Prop :=
  ∀ (i : Instr) (s t : State), exec i s = .next t →
    t.cfg = s.cfg ∧ t.schedule = s.schedule ∧ t.kbdData = s.kbdData ∧ t.kbdWritten = s.kbdWritten ∧
    t.faultAddr = s.faultAddr ∧ (s.ifFlag = true → t.ifFlag = true) ∧
    (i.mnemonic ∉ [.readByte, .readWord, .readRequestRegister, .readServiceRegister] →
      t.result = s.result ∧ t.resultWritten = s.resultWritten) ∧
    (i.mnemonic ∉ [.setDescriptor, .init] →
      t.mem = s.mem ∧ t.vecSet = s.vecSet ∧ t.idtr = s.idtr ∧ t.ifFlag = s.ifFlag) ∧
    (i.mnemonic ≠ .dispatch → t.halted = s.halted ∧ t.diagOut = s.diagOut) ∧
    (i.mnemonic ∉ [.dispatch, .keyboardDecode] → t.charOut = s.charOut) ∧
    (i.mnemonic ∈ [.setDescriptor, .init] →
      t.portTrace = s.portTrace ∧ t.picM = s.picM ∧ t.picS = s.picS ∧ t.draws = s.draws) ∧
    (∀ j, t.picM.irr.getLsbD j = true → s.picM.irr.getLsbD j = true) ∧
    (∀ j, t.picS.irr.getLsbD j = true → s.picS.irr.getLsbD j = true)

/-- R21, R140, R141: no step of an agent but HOST's SET_DESCRIPTOR and INIT, and RESET, writes the table. -/
def Obligations.TableWrittenByBuilderOnly : Prop :=
  ∀ s t : State, step s = .next t → s.schedule.head? ≠ some .reset →
    (∀ w i, s.schedule.head? = some (.command w) → decodeWord w = .ok i →
      i.mnemonic ∉ [.setDescriptor, .init]) →
    t.mem = s.mem ∧ t.vecSet = s.vecSet ∧ t.idtr = s.idtr
end

