-- ==== Sys2Proof/Laws/Encoding.lean ====
section
/-! SUPPORT. The command word by fields (30_encoding.md R91): what a packed word's fields are, that a word is
its fields packed, and how a mask acts on a packed word. -/

namespace Sys2Proof

theorem packWord_and (o a b c o' a' b' c') :
    packWord o a b c &&& packWord o' a' b' c' = packWord (o &&& o') (a &&& a') (b &&& b') (c &&& c') := by
  exact (BitVec.and_append (x₁ := o ++ a ++ b)).trans (congrArg (· ++ (c &&& c'))
    ((BitVec.and_append (x₁ := o ++ a)).trans (congrArg (· ++ (b &&& b')) BitVec.and_append)))

theorem opField_packWord (o a b c) : opField (packWord o a b c) = o := by
  apply BitVec.eq_of_getLsbD_eq
  intro i hi
  simp only [opField, packWord, BitVec.getLsbD_extractLsb', BitVec.getLsbD_append]
  interval_cases i <;> simp

theorem aField_packWord (o a b c) : aField (packWord o a b c) = a := by
  apply BitVec.eq_of_getLsbD_eq
  intro i hi
  simp only [aField, packWord, BitVec.getLsbD_extractLsb', BitVec.getLsbD_append]
  interval_cases i <;> simp

theorem bField_packWord (o a b c) : bField (packWord o a b c) = b := by
  apply BitVec.eq_of_getLsbD_eq
  intro i hi
  simp only [bField, packWord, BitVec.getLsbD_extractLsb', BitVec.getLsbD_append]
  interval_cases i <;> simp

theorem cField_packWord (o a b c) : cField (packWord o a b c) = c := by
  apply BitVec.eq_of_getLsbD_eq
  intro i hi
  simp only [cField, packWord, BitVec.getLsbD_extractLsb', BitVec.getLsbD_append]
  interval_cases i <;> simp

/-- A word is its four fields packed. -/
theorem packWord_fields (w : CommandWord) : packWord (opField w) (aField w) (bField w) (cField w) = w := by
  apply BitVec.eq_of_getLsbD_eq
  intro i hi
  simp only [opField, aField, bField, cField, packWord, BitVec.getLsbD_extractLsb', BitVec.getLsbD_append]
  interval_cases i <;> simp

theorem packWord_inj {o a b c o' a' b' c'} :
    packWord o a b c = packWord o' a' b' c' ↔ o = o' ∧ a = a' ∧ b = b' ∧ c = c' := by
  constructor
  · intro h
    have h1 := congrArg opField h
    have h2 := congrArg aField h
    have h3 := congrArg bField h
    have h4 := congrArg cField h
    simp only [opField_packWord, aField_packWord, bField_packWord, cField_packWord] at h1 h2 h3 h4
    exact ⟨h1, h2, h3, h4⟩
  · rintro ⟨rfl, rfl, rfl, rfl⟩; rfl

/-- The bits of a 16-bit operand above its width are 0. -/
theorem setWidth_half_and_mask (p : Half) : p.setWidth 32 &&& 0xFFFF0000#32 = 0#32 := by
  apply BitVec.eq_of_getLsbD_eq
  intro i hi
  simp only [BitVec.getLsbD_and, BitVec.getLsbD_setWidth]
  interval_cases i <;> simp

/-- The bits of an 8-bit operand above its width are 0. -/
theorem setWidth_byte_and_mask (p : Byte) : p.setWidth 32 &&& 0xFFFFFF00#32 = 0#32 := by
  apply BitVec.eq_of_getLsbD_eq
  intro i hi
  simp only [BitVec.getLsbD_and, BitVec.getLsbD_setWidth]
  interval_cases i <;> simp

/-- The four parts of a mask, R93: the opcode's is all ones. -/
def Mnemonic.maskFields : Mnemonic → Word × Word × Byte
  | .readByte => (0xFFFF0000, 0xFFFFFFFF, 0xFF)
  | .writeByte => (0xFFFF0000, 0xFFFFFFFF, 0x00)
  | .readWord => (0xFFFF0000, 0xFFFFFFFF, 0xFF)
  | .writeWord => (0xFFFF0000, 0xFFFF0000, 0xFF)
  | .remap => (0xFFFFFF00, 0xFFFFFF00, 0xFF)
  | .setMask => (0xFFFFFFFF, 0xFFFFFFFF, 0x00)
  | .clearMask => (0xFFFFFFFF, 0xFFFFFFFF, 0x00)
  | .sendEoi => (0xFFFFFFFF, 0xFFFFFFFF, 0x00)
  | .readRequestRegister => (0xFFFFFFFF, 0xFFFFFFFF, 0xFF)
  | .readServiceRegister => (0xFFFFFFFF, 0xFFFFFFFF, 0xFF)
  | .setDescriptor => (0, 0, 0x00)
  | .init => (0xFFFFFFFF, 0xFFFFFFFF, 0xFF)
  | .dispatch => (0, 0, 0xFF)
  | .keyboardDecode => (0xFFFFFFFF, 0xFFFFFFFF, 0xFF)

theorem Mnemonic.maskBits_eq (m : Mnemonic) :
    m.maskBits = packWord 0xFF m.maskFields.1 m.maskFields.2.1 m.maskFields.2.2 := by
  cases m <;> decide

theorem Mnemonic.matchBits_eq (m : Mnemonic) : m.matchBits = packWord m.opcode 0 0 0 := by
  cases m <;> decide

/-- A packed word matches a row exactly when the opcode is the row's and every reserved bit is 0. -/
theorem Mnemonic.matchesWord_packWord (m : Mnemonic) (o a b c) :
    m.matchesWord (packWord o a b c) = true ↔
      o = m.opcode ∧ a &&& m.maskFields.1 = 0 ∧ b &&& m.maskFields.2.1 = 0 ∧ c &&& m.maskFields.2.2 = 0 := by
  have ho : o &&& 0xFF = o := by rw [show (0xFF : Byte) = BitVec.allOnes 8 from rfl, BitVec.and_allOnes]
  rw [Mnemonic.matchesWord, Mnemonic.maskBits_eq, Mnemonic.matchBits_eq, packWord_and, ho, beq_iff_eq,
    packWord_inj]

/-- Every mnemonic stands in the list of all. -/
theorem Mnemonic.mem_all (m : Mnemonic) : m ∈ Mnemonic.all := by cases m <;> decide

/-- The opcodes are distinct. -/
theorem Mnemonic.opcode_inj {m n : Mnemonic} (h : m.opcode = n.opcode) : m = n := by
  revert h; cases m <;> cases n <;> decide

end Sys2Proof
end

