-- ==== Sys2Proof/Laws/State.lean ====
section
/-! SUPPORT. One lemma per field per named update of State (GOOD_PV_LEAN.md section 3): no later proof unfolds
a record update. -/

namespace Sys2Proof.Machine

/-! ### `State.raise` -/

@[simp] theorem State.raise_mem (c : FaultCode) (s : State) : (s.raise c).mem = s.mem := rfl
@[simp] theorem State.raise_idtr (c : FaultCode) (s : State) : (s.raise c).idtr = s.idtr := rfl
@[simp] theorem State.raise_vecSet (c : FaultCode) (s : State) : (s.raise c).vecSet = s.vecSet := rfl
@[simp] theorem State.raise_ifFlag (c : FaultCode) (s : State) : (s.raise c).ifFlag = s.ifFlag := rfl
@[simp] theorem State.raise_halted (c : FaultCode) (s : State) : (s.raise c).halted = s.halted := rfl
@[simp] theorem State.raise_result (c : FaultCode) (s : State) : (s.raise c).result = s.result := rfl
@[simp] theorem State.raise_fault (c : FaultCode) (s : State) : (s.raise c).fault = setBit s.fault c.bit := rfl
@[simp] theorem State.raise_picM (c : FaultCode) (s : State) : (s.raise c).picM = s.picM := rfl
@[simp] theorem State.raise_picS (c : FaultCode) (s : State) : (s.raise c).picS = s.picS := rfl
@[simp] theorem State.raise_kbdData (c : FaultCode) (s : State) : (s.raise c).kbdData = s.kbdData := rfl
@[simp] theorem State.raise_faultAddr (c : FaultCode) (s : State) : (s.raise c).faultAddr = s.faultAddr := rfl
@[simp] theorem State.raise_charOut (c : FaultCode) (s : State) : (s.raise c).charOut = s.charOut := rfl
@[simp] theorem State.raise_diagOut (c : FaultCode) (s : State) : (s.raise c).diagOut = s.diagOut := rfl
@[simp] theorem State.raise_portTrace (c : FaultCode) (s : State) : (s.raise c).portTrace = s.portTrace := rfl
@[simp] theorem State.raise_kbdWritten (c : FaultCode) (s : State) : (s.raise c).kbdWritten = s.kbdWritten := rfl
@[simp] theorem State.raise_resultWritten (c : FaultCode) (s : State) : (s.raise c).resultWritten = s.resultWritten := rfl
@[simp] theorem State.raise_draws (c : FaultCode) (s : State) : (s.raise c).draws = s.draws := rfl
@[simp] theorem State.raise_cfg (c : FaultCode) (s : State) : (s.raise c).cfg = s.cfg := rfl
@[simp] theorem State.raise_schedule (c : FaultCode) (s : State) : (s.raise c).schedule = s.schedule := rfl

/-! ### `State.setIf` -/

@[simp] theorem State.setIf_mem (v : Bool) (s : State) : (s.setIf v).mem = s.mem := rfl
@[simp] theorem State.setIf_idtr (v : Bool) (s : State) : (s.setIf v).idtr = s.idtr := rfl
@[simp] theorem State.setIf_vecSet (v : Bool) (s : State) : (s.setIf v).vecSet = s.vecSet := rfl
@[simp] theorem State.setIf_ifFlag (v : Bool) (s : State) : (s.setIf v).ifFlag = v := rfl
@[simp] theorem State.setIf_halted (v : Bool) (s : State) : (s.setIf v).halted = s.halted := rfl
@[simp] theorem State.setIf_result (v : Bool) (s : State) : (s.setIf v).result = s.result := rfl
@[simp] theorem State.setIf_fault (v : Bool) (s : State) : (s.setIf v).fault = s.fault := rfl
@[simp] theorem State.setIf_picM (v : Bool) (s : State) : (s.setIf v).picM = s.picM := rfl
@[simp] theorem State.setIf_picS (v : Bool) (s : State) : (s.setIf v).picS = s.picS := rfl
@[simp] theorem State.setIf_kbdData (v : Bool) (s : State) : (s.setIf v).kbdData = s.kbdData := rfl
@[simp] theorem State.setIf_faultAddr (v : Bool) (s : State) : (s.setIf v).faultAddr = s.faultAddr := rfl
@[simp] theorem State.setIf_charOut (v : Bool) (s : State) : (s.setIf v).charOut = s.charOut := rfl
@[simp] theorem State.setIf_diagOut (v : Bool) (s : State) : (s.setIf v).diagOut = s.diagOut := rfl
@[simp] theorem State.setIf_portTrace (v : Bool) (s : State) : (s.setIf v).portTrace = s.portTrace := rfl
@[simp] theorem State.setIf_kbdWritten (v : Bool) (s : State) : (s.setIf v).kbdWritten = s.kbdWritten := rfl
@[simp] theorem State.setIf_resultWritten (v : Bool) (s : State) : (s.setIf v).resultWritten = s.resultWritten := rfl
@[simp] theorem State.setIf_draws (v : Bool) (s : State) : (s.setIf v).draws = s.draws := rfl
@[simp] theorem State.setIf_cfg (v : Bool) (s : State) : (s.setIf v).cfg = s.cfg := rfl
@[simp] theorem State.setIf_schedule (v : Bool) (s : State) : (s.setIf v).schedule = s.schedule := rfl

/-! ### `State.halt` -/

@[simp] theorem State.halt_mem (s : State) : s.halt.mem = s.mem := rfl
@[simp] theorem State.halt_idtr (s : State) : s.halt.idtr = s.idtr := rfl
@[simp] theorem State.halt_vecSet (s : State) : s.halt.vecSet = s.vecSet := rfl
@[simp] theorem State.halt_ifFlag (s : State) : s.halt.ifFlag = s.ifFlag := rfl
@[simp] theorem State.halt_halted (s : State) : s.halt.halted = true := rfl
@[simp] theorem State.halt_result (s : State) : s.halt.result = s.result := rfl
@[simp] theorem State.halt_fault (s : State) : s.halt.fault = s.fault := rfl
@[simp] theorem State.halt_picM (s : State) : s.halt.picM = s.picM := rfl
@[simp] theorem State.halt_picS (s : State) : s.halt.picS = s.picS := rfl
@[simp] theorem State.halt_kbdData (s : State) : s.halt.kbdData = s.kbdData := rfl
@[simp] theorem State.halt_faultAddr (s : State) : s.halt.faultAddr = s.faultAddr := rfl
@[simp] theorem State.halt_charOut (s : State) : s.halt.charOut = s.charOut := rfl
@[simp] theorem State.halt_diagOut (s : State) : s.halt.diagOut = s.diagOut := rfl
@[simp] theorem State.halt_portTrace (s : State) : s.halt.portTrace = s.portTrace := rfl
@[simp] theorem State.halt_kbdWritten (s : State) : s.halt.kbdWritten = s.kbdWritten := rfl
@[simp] theorem State.halt_resultWritten (s : State) : s.halt.resultWritten = s.resultWritten := rfl
@[simp] theorem State.halt_draws (s : State) : s.halt.draws = s.draws := rfl
@[simp] theorem State.halt_cfg (s : State) : s.halt.cfg = s.cfg := rfl
@[simp] theorem State.halt_schedule (s : State) : s.halt.schedule = s.schedule := rfl

/-! ### `State.setResult` -/

@[simp] theorem State.setResult_mem (v : Half) (s : State) : (s.setResult v).mem = s.mem := rfl
@[simp] theorem State.setResult_idtr (v : Half) (s : State) : (s.setResult v).idtr = s.idtr := rfl
@[simp] theorem State.setResult_vecSet (v : Half) (s : State) : (s.setResult v).vecSet = s.vecSet := rfl
@[simp] theorem State.setResult_ifFlag (v : Half) (s : State) : (s.setResult v).ifFlag = s.ifFlag := rfl
@[simp] theorem State.setResult_halted (v : Half) (s : State) : (s.setResult v).halted = s.halted := rfl
@[simp] theorem State.setResult_result (v : Half) (s : State) : (s.setResult v).result = v := rfl
@[simp] theorem State.setResult_fault (v : Half) (s : State) : (s.setResult v).fault = s.fault := rfl
@[simp] theorem State.setResult_picM (v : Half) (s : State) : (s.setResult v).picM = s.picM := rfl
@[simp] theorem State.setResult_picS (v : Half) (s : State) : (s.setResult v).picS = s.picS := rfl
@[simp] theorem State.setResult_kbdData (v : Half) (s : State) : (s.setResult v).kbdData = s.kbdData := rfl
@[simp] theorem State.setResult_faultAddr (v : Half) (s : State) : (s.setResult v).faultAddr = s.faultAddr := rfl
@[simp] theorem State.setResult_charOut (v : Half) (s : State) : (s.setResult v).charOut = s.charOut := rfl
@[simp] theorem State.setResult_diagOut (v : Half) (s : State) : (s.setResult v).diagOut = s.diagOut := rfl
@[simp] theorem State.setResult_portTrace (v : Half) (s : State) : (s.setResult v).portTrace = s.portTrace := rfl
@[simp] theorem State.setResult_kbdWritten (v : Half) (s : State) : (s.setResult v).kbdWritten = s.kbdWritten := rfl
@[simp] theorem State.setResult_resultWritten (v : Half) (s : State) : (s.setResult v).resultWritten = true := rfl
@[simp] theorem State.setResult_draws (v : Half) (s : State) : (s.setResult v).draws = s.draws := rfl
@[simp] theorem State.setResult_cfg (v : Half) (s : State) : (s.setResult v).cfg = s.cfg := rfl
@[simp] theorem State.setResult_schedule (v : Half) (s : State) : (s.setResult v).schedule = s.schedule := rfl

/-! ### `State.emitChar` -/

@[simp] theorem State.emitChar_mem (c : Byte) (s : State) : (s.emitChar c).mem = s.mem := rfl
@[simp] theorem State.emitChar_idtr (c : Byte) (s : State) : (s.emitChar c).idtr = s.idtr := rfl
@[simp] theorem State.emitChar_vecSet (c : Byte) (s : State) : (s.emitChar c).vecSet = s.vecSet := rfl
@[simp] theorem State.emitChar_ifFlag (c : Byte) (s : State) : (s.emitChar c).ifFlag = s.ifFlag := rfl
@[simp] theorem State.emitChar_halted (c : Byte) (s : State) : (s.emitChar c).halted = s.halted := rfl
@[simp] theorem State.emitChar_result (c : Byte) (s : State) : (s.emitChar c).result = s.result := rfl
@[simp] theorem State.emitChar_fault (c : Byte) (s : State) : (s.emitChar c).fault = s.fault := rfl
@[simp] theorem State.emitChar_picM (c : Byte) (s : State) : (s.emitChar c).picM = s.picM := rfl
@[simp] theorem State.emitChar_picS (c : Byte) (s : State) : (s.emitChar c).picS = s.picS := rfl
@[simp] theorem State.emitChar_kbdData (c : Byte) (s : State) : (s.emitChar c).kbdData = s.kbdData := rfl
@[simp] theorem State.emitChar_faultAddr (c : Byte) (s : State) : (s.emitChar c).faultAddr = s.faultAddr := rfl
@[simp] theorem State.emitChar_charOut (c : Byte) (s : State) : (s.emitChar c).charOut = s.charOut ++ [c] := rfl
@[simp] theorem State.emitChar_diagOut (c : Byte) (s : State) : (s.emitChar c).diagOut = s.diagOut := rfl
@[simp] theorem State.emitChar_portTrace (c : Byte) (s : State) : (s.emitChar c).portTrace = s.portTrace := rfl
@[simp] theorem State.emitChar_kbdWritten (c : Byte) (s : State) : (s.emitChar c).kbdWritten = s.kbdWritten := rfl
@[simp] theorem State.emitChar_resultWritten (c : Byte) (s : State) : (s.emitChar c).resultWritten = s.resultWritten := rfl
@[simp] theorem State.emitChar_draws (c : Byte) (s : State) : (s.emitChar c).draws = s.draws := rfl
@[simp] theorem State.emitChar_cfg (c : Byte) (s : State) : (s.emitChar c).cfg = s.cfg := rfl
@[simp] theorem State.emitChar_schedule (c : Byte) (s : State) : (s.emitChar c).schedule = s.schedule := rfl

/-! ### `State.emitDiag` -/

@[simp] theorem State.emitDiag_mem (r : DiagRecord) (s : State) : (s.emitDiag r).mem = s.mem := rfl
@[simp] theorem State.emitDiag_idtr (r : DiagRecord) (s : State) : (s.emitDiag r).idtr = s.idtr := rfl
@[simp] theorem State.emitDiag_vecSet (r : DiagRecord) (s : State) : (s.emitDiag r).vecSet = s.vecSet := rfl
@[simp] theorem State.emitDiag_ifFlag (r : DiagRecord) (s : State) : (s.emitDiag r).ifFlag = s.ifFlag := rfl
@[simp] theorem State.emitDiag_halted (r : DiagRecord) (s : State) : (s.emitDiag r).halted = s.halted := rfl
@[simp] theorem State.emitDiag_result (r : DiagRecord) (s : State) : (s.emitDiag r).result = s.result := rfl
@[simp] theorem State.emitDiag_fault (r : DiagRecord) (s : State) : (s.emitDiag r).fault = s.fault := rfl
@[simp] theorem State.emitDiag_picM (r : DiagRecord) (s : State) : (s.emitDiag r).picM = s.picM := rfl
@[simp] theorem State.emitDiag_picS (r : DiagRecord) (s : State) : (s.emitDiag r).picS = s.picS := rfl
@[simp] theorem State.emitDiag_kbdData (r : DiagRecord) (s : State) : (s.emitDiag r).kbdData = s.kbdData := rfl
@[simp] theorem State.emitDiag_faultAddr (r : DiagRecord) (s : State) : (s.emitDiag r).faultAddr = s.faultAddr := rfl
@[simp] theorem State.emitDiag_charOut (r : DiagRecord) (s : State) : (s.emitDiag r).charOut = s.charOut := rfl
@[simp] theorem State.emitDiag_diagOut (r : DiagRecord) (s : State) : (s.emitDiag r).diagOut = s.diagOut ++ [r] := rfl
@[simp] theorem State.emitDiag_portTrace (r : DiagRecord) (s : State) : (s.emitDiag r).portTrace = s.portTrace := rfl
@[simp] theorem State.emitDiag_kbdWritten (r : DiagRecord) (s : State) : (s.emitDiag r).kbdWritten = s.kbdWritten := rfl
@[simp] theorem State.emitDiag_resultWritten (r : DiagRecord) (s : State) : (s.emitDiag r).resultWritten = s.resultWritten := rfl
@[simp] theorem State.emitDiag_draws (r : DiagRecord) (s : State) : (s.emitDiag r).draws = s.draws := rfl
@[simp] theorem State.emitDiag_cfg (r : DiagRecord) (s : State) : (s.emitDiag r).cfg = s.cfg := rfl
@[simp] theorem State.emitDiag_schedule (r : DiagRecord) (s : State) : (s.emitDiag r).schedule = s.schedule := rfl

/-! ### `State.trace` -/

@[simp] theorem State.trace_mem (r : PortRecord) (s : State) : (s.trace r).mem = s.mem := rfl
@[simp] theorem State.trace_idtr (r : PortRecord) (s : State) : (s.trace r).idtr = s.idtr := rfl
@[simp] theorem State.trace_vecSet (r : PortRecord) (s : State) : (s.trace r).vecSet = s.vecSet := rfl
@[simp] theorem State.trace_ifFlag (r : PortRecord) (s : State) : (s.trace r).ifFlag = s.ifFlag := rfl
@[simp] theorem State.trace_halted (r : PortRecord) (s : State) : (s.trace r).halted = s.halted := rfl
@[simp] theorem State.trace_result (r : PortRecord) (s : State) : (s.trace r).result = s.result := rfl
@[simp] theorem State.trace_fault (r : PortRecord) (s : State) : (s.trace r).fault = s.fault := rfl
@[simp] theorem State.trace_picM (r : PortRecord) (s : State) : (s.trace r).picM = s.picM := rfl
@[simp] theorem State.trace_picS (r : PortRecord) (s : State) : (s.trace r).picS = s.picS := rfl
@[simp] theorem State.trace_kbdData (r : PortRecord) (s : State) : (s.trace r).kbdData = s.kbdData := rfl
@[simp] theorem State.trace_faultAddr (r : PortRecord) (s : State) : (s.trace r).faultAddr = s.faultAddr := rfl
@[simp] theorem State.trace_charOut (r : PortRecord) (s : State) : (s.trace r).charOut = s.charOut := rfl
@[simp] theorem State.trace_diagOut (r : PortRecord) (s : State) : (s.trace r).diagOut = s.diagOut := rfl
@[simp] theorem State.trace_portTrace (r : PortRecord) (s : State) : (s.trace r).portTrace = s.portTrace ++ [r] := rfl
@[simp] theorem State.trace_kbdWritten (r : PortRecord) (s : State) : (s.trace r).kbdWritten = s.kbdWritten := rfl
@[simp] theorem State.trace_resultWritten (r : PortRecord) (s : State) : (s.trace r).resultWritten = s.resultWritten := rfl
@[simp] theorem State.trace_draws (r : PortRecord) (s : State) : (s.trace r).draws = s.draws := rfl
@[simp] theorem State.trace_cfg (r : PortRecord) (s : State) : (s.trace r).cfg = s.cfg := rfl
@[simp] theorem State.trace_schedule (r : PortRecord) (s : State) : (s.trace r).schedule = s.schedule := rfl

/-! ### `State.draw8` -/

@[simp] theorem State.draw8_mem (s : State) : s.draw8.2.mem = s.mem := rfl
@[simp] theorem State.draw8_idtr (s : State) : s.draw8.2.idtr = s.idtr := rfl
@[simp] theorem State.draw8_vecSet (s : State) : s.draw8.2.vecSet = s.vecSet := rfl
@[simp] theorem State.draw8_ifFlag (s : State) : s.draw8.2.ifFlag = s.ifFlag := rfl
@[simp] theorem State.draw8_halted (s : State) : s.draw8.2.halted = s.halted := rfl
@[simp] theorem State.draw8_result (s : State) : s.draw8.2.result = s.result := rfl
@[simp] theorem State.draw8_fault (s : State) : s.draw8.2.fault = s.fault := rfl
@[simp] theorem State.draw8_picM (s : State) : s.draw8.2.picM = s.picM := rfl
@[simp] theorem State.draw8_picS (s : State) : s.draw8.2.picS = s.picS := rfl
@[simp] theorem State.draw8_kbdData (s : State) : s.draw8.2.kbdData = s.kbdData := rfl
@[simp] theorem State.draw8_faultAddr (s : State) : s.draw8.2.faultAddr = s.faultAddr := rfl
@[simp] theorem State.draw8_charOut (s : State) : s.draw8.2.charOut = s.charOut := rfl
@[simp] theorem State.draw8_diagOut (s : State) : s.draw8.2.diagOut = s.diagOut := rfl
@[simp] theorem State.draw8_portTrace (s : State) : s.draw8.2.portTrace = s.portTrace := rfl
@[simp] theorem State.draw8_kbdWritten (s : State) : s.draw8.2.kbdWritten = s.kbdWritten := rfl
@[simp] theorem State.draw8_resultWritten (s : State) : s.draw8.2.resultWritten = s.resultWritten := rfl
@[simp] theorem State.draw8_draws (s : State) : s.draw8.2.draws = s.draws + 1 := rfl
@[simp] theorem State.draw8_cfg (s : State) : s.draw8.2.cfg = s.cfg := rfl
@[simp] theorem State.draw8_schedule (s : State) : s.draw8.2.schedule = s.schedule := rfl

/-! ### `State.draw16` -/

@[simp] theorem State.draw16_mem (s : State) : s.draw16.2.mem = s.mem := rfl
@[simp] theorem State.draw16_idtr (s : State) : s.draw16.2.idtr = s.idtr := rfl
@[simp] theorem State.draw16_vecSet (s : State) : s.draw16.2.vecSet = s.vecSet := rfl
@[simp] theorem State.draw16_ifFlag (s : State) : s.draw16.2.ifFlag = s.ifFlag := rfl
@[simp] theorem State.draw16_halted (s : State) : s.draw16.2.halted = s.halted := rfl
@[simp] theorem State.draw16_result (s : State) : s.draw16.2.result = s.result := rfl
@[simp] theorem State.draw16_fault (s : State) : s.draw16.2.fault = s.fault := rfl
@[simp] theorem State.draw16_picM (s : State) : s.draw16.2.picM = s.picM := rfl
@[simp] theorem State.draw16_picS (s : State) : s.draw16.2.picS = s.picS := rfl
@[simp] theorem State.draw16_kbdData (s : State) : s.draw16.2.kbdData = s.kbdData := rfl
@[simp] theorem State.draw16_faultAddr (s : State) : s.draw16.2.faultAddr = s.faultAddr := rfl
@[simp] theorem State.draw16_charOut (s : State) : s.draw16.2.charOut = s.charOut := rfl
@[simp] theorem State.draw16_diagOut (s : State) : s.draw16.2.diagOut = s.diagOut := rfl
@[simp] theorem State.draw16_portTrace (s : State) : s.draw16.2.portTrace = s.portTrace := rfl
@[simp] theorem State.draw16_kbdWritten (s : State) : s.draw16.2.kbdWritten = s.kbdWritten := rfl
@[simp] theorem State.draw16_resultWritten (s : State) : s.draw16.2.resultWritten = s.resultWritten := rfl
@[simp] theorem State.draw16_draws (s : State) : s.draw16.2.draws = s.draws + 1 := rfl
@[simp] theorem State.draw16_cfg (s : State) : s.draw16.2.cfg = s.cfg := rfl
@[simp] theorem State.draw16_schedule (s : State) : s.draw16.2.schedule = s.schedule := rfl

/-! ### `State.draw32` -/

@[simp] theorem State.draw32_mem (s : State) : s.draw32.2.mem = s.mem := rfl
@[simp] theorem State.draw32_idtr (s : State) : s.draw32.2.idtr = s.idtr := rfl
@[simp] theorem State.draw32_vecSet (s : State) : s.draw32.2.vecSet = s.vecSet := rfl
@[simp] theorem State.draw32_ifFlag (s : State) : s.draw32.2.ifFlag = s.ifFlag := rfl
@[simp] theorem State.draw32_halted (s : State) : s.draw32.2.halted = s.halted := rfl
@[simp] theorem State.draw32_result (s : State) : s.draw32.2.result = s.result := rfl
@[simp] theorem State.draw32_fault (s : State) : s.draw32.2.fault = s.fault := rfl
@[simp] theorem State.draw32_picM (s : State) : s.draw32.2.picM = s.picM := rfl
@[simp] theorem State.draw32_picS (s : State) : s.draw32.2.picS = s.picS := rfl
@[simp] theorem State.draw32_kbdData (s : State) : s.draw32.2.kbdData = s.kbdData := rfl
@[simp] theorem State.draw32_faultAddr (s : State) : s.draw32.2.faultAddr = s.faultAddr := rfl
@[simp] theorem State.draw32_charOut (s : State) : s.draw32.2.charOut = s.charOut := rfl
@[simp] theorem State.draw32_diagOut (s : State) : s.draw32.2.diagOut = s.diagOut := rfl
@[simp] theorem State.draw32_portTrace (s : State) : s.draw32.2.portTrace = s.portTrace := rfl
@[simp] theorem State.draw32_kbdWritten (s : State) : s.draw32.2.kbdWritten = s.kbdWritten := rfl
@[simp] theorem State.draw32_resultWritten (s : State) : s.draw32.2.resultWritten = s.resultWritten := rfl
@[simp] theorem State.draw32_draws (s : State) : s.draw32.2.draws = s.draws + 1 := rfl
@[simp] theorem State.draw32_cfg (s : State) : s.draw32.2.cfg = s.cfg := rfl
@[simp] theorem State.draw32_schedule (s : State) : s.draw32.2.schedule = s.schedule := rfl

/-! ### `State.loadIdtr` -/

@[simp] theorem State.loadIdtr_mem (s : State) : s.loadIdtr.mem = s.mem := rfl
@[simp] theorem State.loadIdtr_idtr (s : State) : s.loadIdtr.idtr = { loaded := true, base := s.cfg.idtBase, limit := idtLimit } := rfl
@[simp] theorem State.loadIdtr_vecSet (s : State) : s.loadIdtr.vecSet = s.vecSet := rfl
@[simp] theorem State.loadIdtr_ifFlag (s : State) : s.loadIdtr.ifFlag = s.ifFlag := rfl
@[simp] theorem State.loadIdtr_halted (s : State) : s.loadIdtr.halted = s.halted := rfl
@[simp] theorem State.loadIdtr_result (s : State) : s.loadIdtr.result = s.result := rfl
@[simp] theorem State.loadIdtr_fault (s : State) : s.loadIdtr.fault = s.fault := rfl
@[simp] theorem State.loadIdtr_picM (s : State) : s.loadIdtr.picM = s.picM := rfl
@[simp] theorem State.loadIdtr_picS (s : State) : s.loadIdtr.picS = s.picS := rfl
@[simp] theorem State.loadIdtr_kbdData (s : State) : s.loadIdtr.kbdData = s.kbdData := rfl
@[simp] theorem State.loadIdtr_faultAddr (s : State) : s.loadIdtr.faultAddr = s.faultAddr := rfl
@[simp] theorem State.loadIdtr_charOut (s : State) : s.loadIdtr.charOut = s.charOut := rfl
@[simp] theorem State.loadIdtr_diagOut (s : State) : s.loadIdtr.diagOut = s.diagOut := rfl
@[simp] theorem State.loadIdtr_portTrace (s : State) : s.loadIdtr.portTrace = s.portTrace := rfl
@[simp] theorem State.loadIdtr_kbdWritten (s : State) : s.loadIdtr.kbdWritten = s.kbdWritten := rfl
@[simp] theorem State.loadIdtr_resultWritten (s : State) : s.loadIdtr.resultWritten = s.resultWritten := rfl
@[simp] theorem State.loadIdtr_draws (s : State) : s.loadIdtr.draws = s.draws := rfl
@[simp] theorem State.loadIdtr_cfg (s : State) : s.loadIdtr.cfg = s.cfg := rfl
@[simp] theorem State.loadIdtr_schedule (s : State) : s.loadIdtr.schedule = s.schedule := rfl

/-! ### `State.writeGate` -/

@[simp] theorem State.writeGate_mem (v : Nat) (g : Gate) (s : State) : (s.writeGate v g).mem = s.mem.writeGate (gateAddr s.cfg v) g := rfl
@[simp] theorem State.writeGate_idtr (v : Nat) (g : Gate) (s : State) : (s.writeGate v g).idtr = s.idtr := rfl
@[simp] theorem State.writeGate_vecSet (v : Nat) (g : Gate) (s : State) : (s.writeGate v g).vecSet = s.vecSet ||| (1#256 <<< v) := rfl
@[simp] theorem State.writeGate_ifFlag (v : Nat) (g : Gate) (s : State) : (s.writeGate v g).ifFlag = s.ifFlag := rfl
@[simp] theorem State.writeGate_halted (v : Nat) (g : Gate) (s : State) : (s.writeGate v g).halted = s.halted := rfl
@[simp] theorem State.writeGate_result (v : Nat) (g : Gate) (s : State) : (s.writeGate v g).result = s.result := rfl
@[simp] theorem State.writeGate_fault (v : Nat) (g : Gate) (s : State) : (s.writeGate v g).fault = s.fault := rfl
@[simp] theorem State.writeGate_picM (v : Nat) (g : Gate) (s : State) : (s.writeGate v g).picM = s.picM := rfl
@[simp] theorem State.writeGate_picS (v : Nat) (g : Gate) (s : State) : (s.writeGate v g).picS = s.picS := rfl
@[simp] theorem State.writeGate_kbdData (v : Nat) (g : Gate) (s : State) : (s.writeGate v g).kbdData = s.kbdData := rfl
@[simp] theorem State.writeGate_faultAddr (v : Nat) (g : Gate) (s : State) : (s.writeGate v g).faultAddr = s.faultAddr := rfl
@[simp] theorem State.writeGate_charOut (v : Nat) (g : Gate) (s : State) : (s.writeGate v g).charOut = s.charOut := rfl
@[simp] theorem State.writeGate_diagOut (v : Nat) (g : Gate) (s : State) : (s.writeGate v g).diagOut = s.diagOut := rfl
@[simp] theorem State.writeGate_portTrace (v : Nat) (g : Gate) (s : State) : (s.writeGate v g).portTrace = s.portTrace := rfl
@[simp] theorem State.writeGate_kbdWritten (v : Nat) (g : Gate) (s : State) : (s.writeGate v g).kbdWritten = s.kbdWritten := rfl
@[simp] theorem State.writeGate_resultWritten (v : Nat) (g : Gate) (s : State) : (s.writeGate v g).resultWritten = s.resultWritten := rfl
@[simp] theorem State.writeGate_draws (v : Nat) (g : Gate) (s : State) : (s.writeGate v g).draws = s.draws := rfl
@[simp] theorem State.writeGate_cfg (v : Nat) (g : Gate) (s : State) : (s.writeGate v g).cfg = s.cfg := rfl
@[simp] theorem State.writeGate_schedule (v : Nat) (g : Gate) (s : State) : (s.writeGate v g).schedule = s.schedule := rfl

/-! ### `State.setPic` -/

@[simp] theorem State.setPic_mem (c : Chip) (p : Pic) (s : State) : (s.setPic c p).mem = s.mem := by cases c <;> rfl
@[simp] theorem State.setPic_idtr (c : Chip) (p : Pic) (s : State) : (s.setPic c p).idtr = s.idtr := by cases c <;> rfl
@[simp] theorem State.setPic_vecSet (c : Chip) (p : Pic) (s : State) : (s.setPic c p).vecSet = s.vecSet := by cases c <;> rfl
@[simp] theorem State.setPic_ifFlag (c : Chip) (p : Pic) (s : State) : (s.setPic c p).ifFlag = s.ifFlag := by cases c <;> rfl
@[simp] theorem State.setPic_halted (c : Chip) (p : Pic) (s : State) : (s.setPic c p).halted = s.halted := by cases c <;> rfl
@[simp] theorem State.setPic_result (c : Chip) (p : Pic) (s : State) : (s.setPic c p).result = s.result := by cases c <;> rfl
@[simp] theorem State.setPic_fault (c : Chip) (p : Pic) (s : State) : (s.setPic c p).fault = s.fault := by cases c <;> rfl
@[simp] theorem State.setPic_kbdData (c : Chip) (p : Pic) (s : State) : (s.setPic c p).kbdData = s.kbdData := by cases c <;> rfl
@[simp] theorem State.setPic_faultAddr (c : Chip) (p : Pic) (s : State) : (s.setPic c p).faultAddr = s.faultAddr := by cases c <;> rfl
@[simp] theorem State.setPic_charOut (c : Chip) (p : Pic) (s : State) : (s.setPic c p).charOut = s.charOut := by cases c <;> rfl
@[simp] theorem State.setPic_diagOut (c : Chip) (p : Pic) (s : State) : (s.setPic c p).diagOut = s.diagOut := by cases c <;> rfl
@[simp] theorem State.setPic_portTrace (c : Chip) (p : Pic) (s : State) : (s.setPic c p).portTrace = s.portTrace := by cases c <;> rfl
@[simp] theorem State.setPic_kbdWritten (c : Chip) (p : Pic) (s : State) : (s.setPic c p).kbdWritten = s.kbdWritten := by cases c <;> rfl
@[simp] theorem State.setPic_resultWritten (c : Chip) (p : Pic) (s : State) : (s.setPic c p).resultWritten = s.resultWritten := by cases c <;> rfl
@[simp] theorem State.setPic_draws (c : Chip) (p : Pic) (s : State) : (s.setPic c p).draws = s.draws := by cases c <;> rfl
@[simp] theorem State.setPic_cfg (c : Chip) (p : Pic) (s : State) : (s.setPic c p).cfg = s.cfg := by cases c <;> rfl
@[simp] theorem State.setPic_schedule (c : Chip) (p : Pic) (s : State) : (s.setPic c p).schedule = s.schedule := by cases c <;> rfl

/-! ### Controllers by name -/

@[simp] theorem State.pic_master (s : State) : s.pic .master = s.picM := rfl
@[simp] theorem State.pic_slave (s : State) : s.pic .slave = s.picS := rfl
@[simp] theorem State.setPic_master_picM (p : Pic) (s : State) : (s.setPic .master p).picM = p := rfl
@[simp] theorem State.setPic_master_picS (p : Pic) (s : State) : (s.setPic .master p).picS = s.picS := rfl
@[simp] theorem State.setPic_slave_picS (p : Pic) (s : State) : (s.setPic .slave p).picS = p := rfl
@[simp] theorem State.setPic_slave_picM (p : Pic) (s : State) : (s.setPic .slave p).picM = s.picM := rfl
@[simp] theorem State.setPic_pic (c : Chip) (p : Pic) (s : State) : (s.setPic c p).pic c = p := by cases c <;> rfl

/-! ### Values drawn -/

@[simp] theorem State.draw8_fst (s : State) : s.draw8.1 = Config.freeByte s.draws := rfl
@[simp] theorem State.draw16_fst (s : State) : s.draw16.1 = Config.freeHalf s.draws := rfl
@[simp] theorem State.draw32_fst (s : State) : s.draw32.1 = Config.freeWord s.draws := rfl

end Sys2Proof.Machine
end

