-- ==== Sys2Proof/Laws/Memory.lean ====
section
/-! SUPPORT. Table memory: a read after a write, the canonical form is kept by every operation, a gate read
after a gate written (20_memory.md R65, R66). No law but the canonical form needs a premise on the memory. -/

namespace Sys2Proof.Machine

/-! ## Bytes -/

theorem Memory.read_erase (a x : Nat) (m : Memory) :
    (Memory.erase a m).read x = if x = a then unlistedByte else m.read x := by
  induction m with
  | nil => simp [Memory.erase, Memory.read]
  | cons e m ih =>
    obtain ⟨k, c⟩ := e
    by_cases hk : a = k <;> by_cases hx : x = k <;> simp_all [Memory.erase, Memory.read]
    all_goals intro h; simp_all

theorem Memory.read_insert (a x : Nat) (b : Byte) (m : Memory) :
    (Memory.insert a b m).read x = if x = a then b else m.read x := by
  induction m with
  | nil => simp [Memory.insert, Memory.read]
  | cons e m ih =>
    obtain ⟨k, c⟩ := e
    unfold Memory.insert
    split
    · simp [Memory.read]
    · split
      · subst_vars; by_cases hx : x = k <;> simp [Memory.read, hx]
      · by_cases hx : x = k <;> simp_all [Memory.read]
        intro h; simp_all

/-- Everything a byte write does. -/
theorem Memory.read_write (a x : Nat) (b : Byte) (m : Memory) :
    (Memory.write a b m).read x = if x = a then b else m.read x := by
  unfold Memory.write
  split
  · simp [Memory.read_erase, *]
  · exact Memory.read_insert a x b m

/-! ## The canonical form -/

theorem Memory.mem_erase {a : Nat} {m : Memory} {x : Host.Cell} (h : x ∈ Memory.erase a m) : x ∈ m := by
  induction m with
  | nil => simp [Memory.erase] at h
  | cons e m ih =>
    unfold Memory.erase at h
    split at h
    · exact List.mem_cons_of_mem _ (ih h)
    · rcases List.mem_cons.mp h with h | h
      · simp [h]
      · exact List.mem_cons_of_mem _ (ih h)

theorem Memory.mem_insert {a : Nat} {b : Byte} {m : Memory} {x : Host.Cell}
    (h : x ∈ Memory.insert a b m) : x = (a, b) ∨ x ∈ m := by
  induction m with
  | nil => simpa [Memory.insert] using h
  | cons e m ih =>
    unfold Memory.insert at h
    split at h
    · simpa using h
    · split at h
      · rcases List.mem_cons.mp h with h | h <;> simp [h]
      · rcases List.mem_cons.mp h with h | h
        · simp [h]
        · rcases ih h with h | h <;> simp [h]

theorem Memory.mem_write {a : Nat} {b : Byte} {m : Memory} {x : Host.Cell}
    (h : x ∈ Memory.write a b m) : x = (a, b) ∨ x ∈ m := by
  unfold Memory.write at h
  split at h
  · exact .inr (Memory.mem_erase h)
  · exact Memory.mem_insert h

theorem Memory.wf_nil : Memory.wf [] := by simp [Memory.wf]

theorem Memory.wf_cons {e : Host.Cell} {m : Memory} :
    Memory.wf (e :: m) ↔ (∀ x ∈ m, e.1 < x.1) ∧ e.2 ≠ unlistedByte ∧ Memory.wf m := by
  simp only [Memory.wf, List.pairwise_cons, List.mem_cons, forall_eq_or_imp]
  tauto

theorem Memory.wf_erase (a : Nat) {m : Memory} (h : m.wf) : (Memory.erase a m).wf := by
  induction m with
  | nil => exact Memory.wf_nil
  | cons e m ih =>
    obtain ⟨hlt, hne, hm⟩ := Memory.wf_cons.mp h
    unfold Memory.erase
    split
    · exact ih hm
    · exact Memory.wf_cons.mpr ⟨fun x hx => hlt x (Memory.mem_erase hx), hne, ih hm⟩

theorem Memory.wf_insert {a : Nat} {b : Byte} {m : Memory} (hb : b ≠ unlistedByte) (h : m.wf) :
    (Memory.insert a b m).wf := by
  induction m with
  | nil => simp [Memory.insert, Memory.wf, hb]
  | cons e m ih =>
    obtain ⟨k, c⟩ := e
    obtain ⟨hlt, hne, hm⟩ := Memory.wf_cons.mp h
    unfold Memory.insert
    split
    · refine Memory.wf_cons.mpr ⟨fun x hx => ?_, hb, h⟩
      rcases List.mem_cons.mp hx with rfl | hx
      · assumption
      · exact lt_trans ‹a < k› (hlt x hx)
    · split
      · subst_vars; exact Memory.wf_cons.mpr ⟨hlt, hb, hm⟩
      · refine Memory.wf_cons.mpr ⟨fun x hx => ?_, hne, ih hm⟩
        rcases Memory.mem_insert hx with rfl | hx
        · show k < a; omega
        · exact hlt x hx

/-- A byte write keeps the canonical form. -/
theorem Memory.wf_write (a : Nat) (b : Byte) {m : Memory} (h : m.wf) : (Memory.write a b m).wf := by
  unfold Memory.write
  split
  · exact Memory.wf_erase a h
  · exact Memory.wf_insert ‹_› h

theorem Memory.wf_writeBytes (a : Nat) (g : Gate) (n : Nat) {m : Memory} (h : m.wf) :
    (Memory.writeBytes a g n m).wf := by
  induction n with
  | zero => exact h
  | succ n ih => exact Memory.wf_write _ _ ih

/-- A gate write keeps the canonical form. -/
theorem Memory.wf_writeGate (a : Nat) (g : Gate) {m : Memory} (h : m.wf) : (Memory.writeGate a g m).wf :=
  Memory.wf_writeBytes a g 8 h

/-! ## Gates -/

theorem Memory.read_writeBytes (a x : Nat) (g : Gate) (n : Nat) (m : Memory) :
    (Memory.writeBytes a g n m).read x =
      if a ≤ x ∧ x < a + n then gateByte g (x - a) else m.read x := by
  induction n with
  | zero => simp [Memory.writeBytes]
  | succ n ih =>
    rw [Memory.writeBytes, Memory.read_write, ih]
    by_cases hx : x = a + n
    · subst hx; simp
    · by_cases h : a ≤ x ∧ x < a + n
      · have h' : a ≤ x ∧ x < a + (n + 1) := by omega
        simp only [hx, h, h', if_false, if_true, and_self]
      · have h' : ¬(a ≤ x ∧ x < a + (n + 1)) := by omega
        rw [if_neg hx, if_neg h, if_neg h']

/-- Everything a gate write does to the bytes. -/
theorem Memory.read_writeGate (a x : Nat) (g : Gate) (m : Memory) :
    (Memory.writeGate a g m).read x = if a ≤ x ∧ x < a + 8 then gateByte g (x - a) else m.read x :=
  Memory.read_writeBytes a x g 8 m

theorem Memory.mem_writeBytes {a : Nat} {g : Gate} {n : Nat} {m : Memory} {x : Host.Cell}
    (h : x ∈ Memory.writeBytes a g n m) : (a ≤ x.1 ∧ x.1 < a + n) ∨ x ∈ m := by
  induction n with
  | zero => exact .inr h
  | succ n ih =>
    rcases Memory.mem_write h with rfl | h
    · left; constructor <;> simp
    · rcases ih h with h | h
      · left; omega
      · exact .inr h

theorem Memory.mem_writeGate {a : Nat} {g : Gate} {m : Memory} {x : Host.Cell}
    (h : x ∈ Memory.writeGate a g m) : (a ≤ x.1 ∧ x.1 < a + 8) ∨ x ∈ m := Memory.mem_writeBytes h

/-- A gate is the append of its eight bytes, the last the most significant. -/
theorem gateBytes_append (g : Gate) :
    gateByte g 7 ++ gateByte g 6 ++ gateByte g 5 ++ gateByte g 4 ++
    gateByte g 3 ++ gateByte g 2 ++ gateByte g 1 ++ gateByte g 0 = g := by
  apply BitVec.eq_of_getLsbD_eq
  intro i hi
  simp only [gateByte, BitVec.getLsbD_append, BitVec.getLsbD_extractLsb']
  interval_cases i <;> simp

/-- A gate read where a gate was written. -/
theorem Memory.readGate_writeGate_same (a : Nat) (g : Gate) (m : Memory) :
    (Memory.writeGate a g m).readGate a = g := by
  unfold Memory.readGate
  simp only [Memory.read_writeGate]
  simp
  exact gateBytes_append g

/-- A gate read where the gate write did not reach. -/
theorem Memory.readGate_writeGate_other {a x : Nat} (g : Gate) (m : Memory) (h : x + 8 ≤ a ∨ a + 8 ≤ x) :
    (Memory.writeGate a g m).readGate x = m.readGate x := by
  have hr : ∀ k < 8, (Memory.writeGate a g m).read (x + k) = m.read (x + k) := by
    intro k hk
    rw [Memory.read_writeGate, if_neg (by omega)]
  unfold Memory.readGate
  rw [hr 7 (by omega), hr 6 (by omega), hr 5 (by omega), hr 4 (by omega), hr 3 (by omega),
    hr 2 (by omega), hr 1 (by omega), show x = x + 0 from rfl, hr 0 (by omega)]

/-- What `IDT[w]` is after `IDT[v] <- g` (R140). -/
theorem State.gate_writeGate (v w : Nat) (g : Gate) (s : State) :
    (s.writeGate v g).gate w = if w = v then g else s.gate w := by
  simp only [State.gate, State.writeGate_mem, State.writeGate_cfg]
  split
  · subst_vars; exact Memory.readGate_writeGate_same _ _ _
  · exact Memory.readGate_writeGate_other _ _ (by simp only [gateAddr, gateBytes]; omega)

/-- What `VEC_SET[w]` is after `VEC_SET[v] <- 1` (R23). -/
theorem State.vecSetAt_writeGate (v w : Nat) (g : Gate) (s : State) (hw : w < 256) :
    (s.writeGate v g).vecSetAt w = (decide (w = v) || s.vecSetAt w) := by
  by_cases h : w = v
  · subst h; simp [State.vecSetAt, hw]
  · have h' : (1#256 <<< v).getLsbD w = false := by
      rw [BitVec.getLsbD_shiftLeft]
      by_cases hv : w < v
      · simp [hv]
      · have : w - v ≠ 0 := by omega
        simp [BitVec.getLsbD_one, this]
    simp [State.vecSetAt, h, h']

theorem State.gate_congr {s t : State} (hm : t.mem = s.mem) (hc : t.cfg = s.cfg) (v : Nat) :
    t.gate v = s.gate v := by
  simp [State.gate, hm, hc]

theorem State.vecSetAt_congr {s t : State} (hv : t.vecSet = s.vecSet) (v : Nat) :
    t.vecSetAt v = s.vecSetAt v := by
  simp [State.vecSetAt, hv]

/-! ## Fields of a packed gate (30_encoding.md R97) -/

theorem gateHandler_packGate (h : Word) (a : Byte) : gateHandler (packGate h a) = h := by
  apply BitVec.eq_of_getLsbD_eq
  intro i hi
  simp only [gateHandler, joinHalves, packGate, highHalf, lowHalf, BitVec.getLsbD_append,
    BitVec.getLsbD_extractLsb']
  interval_cases i <;> simp

theorem gateAttrOf_packGate (h : Word) (a : Byte) : gateAttrOf (packGate h a) = a := by
  apply BitVec.eq_of_getLsbD_eq
  intro i hi
  simp only [gateAttrOf, packGate, BitVec.getLsbD_append, BitVec.getLsbD_extractLsb']
  interval_cases i <;> simp

theorem gateZeroOf_packGate (h : Word) (a : Byte) : gateZeroOf (packGate h a) = 0 := by
  apply BitVec.eq_of_getLsbD_eq
  intro i hi
  simp only [gateZeroOf, packGate, BitVec.getLsbD_append, BitVec.getLsbD_extractLsb']
  interval_cases i <;> simp

theorem gateSelectorOf_packGate (h : Word) (a : Byte) : gateSelectorOf (packGate h a) = kernelCs := by
  apply BitVec.eq_of_getLsbD_eq
  intro i hi
  simp only [gateSelectorOf, packGate, BitVec.getLsbD_append, BitVec.getLsbD_extractLsb']
  interval_cases i <;> simp

end Sys2Proof.Machine
end

