-- ==== Sys2Proof/Laws/Ports.lean ====
section
/-! SUPPORT. Everything a device access and a port access can do (20_memory.md R61, R63, R64;
60_exceptions.md R170 to R176), once each: which fields they reach, and what they leave of the invariants. -/

namespace Sys2Proof.Machine

/-! ## Bits -/

theorem setBit_getLsbD {b : Byte} {i j : Nat} (hj : j < 8) :
    (setBit b i).getLsbD j = (decide (j = i) || b.getLsbD j) := by
  by_cases h : j = i
  · subst h; simp [setBit, bitMask, hj]
  · have : (1#8 <<< i).getLsbD j = false := by
      rw [BitVec.getLsbD_shiftLeft]
      by_cases hlt : j < i
      · simp [hlt]
      · have : j - i ≠ 0 := by omega
        simp [BitVec.getLsbD_one, this]
    simp [setBit, bitMask, h, this]

theorem clearBit_getLsbD {b : Byte} {i j : Nat} (hj : j < 8) :
    (clearBit b i).getLsbD j = (!decide (j = i) && b.getLsbD j) := by
  by_cases h : j = i
  · subst h; simp [clearBit, bitMask, hj]
  · have : (1#8 <<< i).getLsbD j = false := by
      rw [BitVec.getLsbD_shiftLeft]
      by_cases hlt : j < i
      · simp [hlt]
      · have : j - i ≠ 0 := by omega
        simp [BitVec.getLsbD_one, this]
    rw [clearBit, bitMask, BitVec.getLsbD_and, BitVec.getLsbD_not, this]
    simp [h, hj]

theorem FaultCode.bit_lt (c : FaultCode) : c.bit < 7 := by cases c <;> decide

/-- `FAULT` bits after `raise` (R27): the code's bit is set and no other changes. -/
theorem State.raise_getLsbD (c : FaultCode) (s : State) {j : Nat} (hj : j < 8) :
    (s.raise c).fault.getLsbD j = (decide (j = c.bit) || s.fault.getLsbD j) := setBit_getLsbD hj

theorem State.hasFault_raise (c d : FaultCode) (s : State) :
    (s.raise c).hasFault d = (decide (d = c) || s.hasFault d) := by
  have hd : d.bit < 8 := by have := d.bit_lt; omega
  rw [State.hasFault, State.raise_getLsbD c s hd]
  congr 1
  cases c <;> cases d <;> decide

/-! ## Devices -/

/-- A device read reaches `FAULT` and the count of draws alone; `FAULT` by `PIC_UNMODELLED` alone. -/
theorem deviceRead_frame (p : Half) (s : State) :
    ∃ f n, (deviceRead p s).2 = { s with fault := f, draws := n } ∧
      (f = s.fault ∨ f = (s.raise .picUnmodelled).fault) := by
  have hc : ∀ c, ∃ f n, (picCmdRead c s).2 = { s with fault := f, draws := n } ∧
      (f = s.fault ∨ f = (s.raise .picUnmodelled).fault) := by
    intro c
    unfold picCmdRead
    split
    · exact ⟨_, _, rfl, .inr rfl⟩
    · split <;> exact ⟨s.fault, s.draws, rfl, .inl rfl⟩
  have hd : ∀ c, ∃ f n, (picDataRead c s).2 = { s with fault := f, draws := n } ∧
      (f = s.fault ∨ f = (s.raise .picUnmodelled).fault) := by
    intro c
    unfold picDataRead
    split
    · exact ⟨_, _, rfl, .inr rfl⟩
    · exact ⟨s.fault, s.draws, rfl, .inl rfl⟩
  unfold deviceRead
  split
  · exact hc _
  · exact hd _
  · unfold kbdDataRead
    split
    · exact ⟨s.fault, s.draws, rfl, .inl rfl⟩
    · exact ⟨s.fault, _, rfl, .inl rfl⟩
  · exact ⟨s.fault, _, rfl, .inl rfl⟩
  · exact ⟨s.fault, _, rfl, .inl rfl⟩

/-- A device write reaches the controllers and `FAULT` alone: it raises no request, and `FAULT` changes by
`PIC_UNMODELLED` alone. -/
theorem deviceWrite_frame (p : Half) (v : Byte) (s : State) :
    ∃ pm ps f, deviceWrite p v s = { s with picM := pm, picS := ps, fault := f } ∧
      (f = s.fault ∨ f = (s.raise .picUnmodelled).fault) ∧
      (pm.irr = s.picM.irr ∨ pm.irr = 0) ∧ (ps.irr = s.picS.irr ∨ ps.irr = 0) := by
  have same : ∃ pm ps f, s = { s with picM := pm, picS := ps, fault := f } ∧
      (f = s.fault ∨ f = (s.raise .picUnmodelled).fault) ∧
      (pm.irr = s.picM.irr ∨ pm.irr = 0) ∧ (ps.irr = s.picS.irr ∨ ps.irr = 0) :=
    ⟨s.picM, s.picS, s.fault, rfl, .inl rfl, .inl rfl, .inl rfl⟩
  have bad : ∃ pm ps f, s.raise .picUnmodelled = { s with picM := pm, picS := ps, fault := f } ∧
      (f = s.fault ∨ f = (s.raise .picUnmodelled).fault) ∧
      (pm.irr = s.picM.irr ∨ pm.irr = 0) ∧ (ps.irr = s.picS.irr ∨ ps.irr = 0) :=
    ⟨s.picM, s.picS, _, rfl, .inr rfl, .inl rfl, .inl rfl⟩
  have set : ∀ (c : Chip) (q : Pic), q.irr = (s.pic c).irr ∨ q.irr = 0 →
      ∃ pm ps f, s.setPic c q = { s with picM := pm, picS := ps, fault := f } ∧
      (f = s.fault ∨ f = (s.raise .picUnmodelled).fault) ∧
      (pm.irr = s.picM.irr ∨ pm.irr = 0) ∧ (ps.irr = s.picS.irr ∨ ps.irr = 0) := by
    intro c q hq
    cases c
    · exact ⟨q, s.picS, s.fault, rfl, .inl rfl, hq, .inl rfl⟩
    · exact ⟨s.picM, q, s.fault, rfl, .inl rfl, .inl rfl, hq⟩
  have eoi : ∀ q : Pic, q.endOfInterrupt.irr = q.irr := by
    intro q; unfold Pic.endOfInterrupt; split <;> rfl
  unfold deviceWrite
  split
  · unfold picCmdWrite
    split
    · exact set _ _ (.inr rfl)
    · split
      · exact bad
      · split
        · exact set _ _ (.inl (eoi _))
        · split
          · exact set _ _ (.inl rfl)
          · split
            · exact set _ _ (.inl rfl)
            · exact bad
  · unfold picDataWrite
    split
    · exact set _ _ (.inl rfl)
    · split
      · exact set _ _ (.inl rfl)
      · exact bad
    · split
      · exact set _ _ (.inl rfl)
      · exact bad
    · exact set _ _ (.inl rfl)
  · exact same
  · exact same
  · exact same

/-! ## Ports -/

/-- Everything a byte read does: one record, and `FAULT` and the count of draws at most. -/
theorem portRead8_frame (p : Half) (s : State) :
    ∃ f n, (portRead8 p s).2 =
        { s with fault := f, draws := n, portTrace := s.portTrace ++ [read8 p (portRead8 p s).1] } ∧
      (f = s.fault ∨ f = (s.raise .picUnmodelled).fault) := by
  obtain ⟨f, n, h, hf⟩ := deviceRead_frame p s
  refine ⟨f, n, ?_, hf⟩
  simp only [portRead8, h]
  rfl

/-- Everything a byte write does: one record, and the controllers and `FAULT` at most. -/
theorem portWrite8_frame (p : Half) (v : Byte) (s : State) :
    ∃ pm ps f, portWrite8 p v s =
        { s with picM := pm, picS := ps, fault := f, portTrace := s.portTrace ++ [wrote8 p v] } ∧
      (f = s.fault ∨ f = (s.raise .picUnmodelled).fault) ∧
      (pm.irr = s.picM.irr ∨ pm.irr = 0) ∧ (ps.irr = s.picS.irr ∨ ps.irr = 0) := by
  obtain ⟨pm, ps, f, h, hf⟩ := deviceWrite_frame p v (s.trace ⟨.write, p, .w8 v⟩)
  exact ⟨pm, ps, f, h, hf⟩

/-- What a sequence of port accesses leaves: the controllers, `FAULT`, the trace and the count of draws may
change; `FAULT` keeps every bit it had and its reserved bit, the trace is extended, no request is raised. -/
structure PortSteps (s t : State) : Prop where
  only : OnlyPortsChanged s t
  faultMono : ∀ j < 8, s.fault.getLsbD j = true → t.fault.getLsbD j = true
  faultOnly : ∀ j < 8, j ≠ 5 → t.fault.getLsbD j = s.fault.getLsbD j
  trace : s.portTrace <+: t.portTrace
  irrM : ∀ j, t.picM.irr.getLsbD j = true → s.picM.irr.getLsbD j = true
  irrS : ∀ j, t.picS.irr.getLsbD j = true → s.picS.irr.getLsbD j = true

theorem PortSteps.refl (s : State) : PortSteps s s :=
  ⟨rfl, fun _ _ h => h, fun _ _ _ => rfl, List.prefix_rfl, fun _ h => h, fun _ h => h⟩

theorem PortSteps.trans {s t u : State} (h : PortSteps s t) (k : PortSteps t u) : PortSteps s u where
  only := by
    have h1 := h.only
    have h2 := k.only
    unfold OnlyPortsChanged at *
    rw [h2, h1]
  faultMono j hj hs := k.faultMono j hj (h.faultMono j hj hs)
  faultOnly j hj h5 := (k.faultOnly j hj h5).trans (h.faultOnly j hj h5)
  trace := h.trace.trans k.trace
  irrM j hj := h.irrM j (k.irrM j hj)
  irrS j hj := h.irrS j (k.irrS j hj)

theorem fault_mono_of {s : State} {f : Byte} (hf : f = s.fault ∨ f = (s.raise .picUnmodelled).fault) :
    (∀ j < 8, s.fault.getLsbD j = true → f.getLsbD j = true) ∧
    (∀ j < 8, j ≠ 5 → f.getLsbD j = s.fault.getLsbD j) := by
  rcases hf with rfl | rfl
  · exact ⟨fun _ _ h => h, fun _ _ _ => rfl⟩
  · constructor
    · intro j hj h; rw [State.raise_getLsbD _ _ hj, h]; simp
    · intro j hj h5
      rw [State.raise_getLsbD _ _ hj]
      simp [FaultCode.bit, h5]

theorem irr_of {x y : Byte} (h : x = y ∨ x = 0) (j : Nat) (hj : x.getLsbD j = true) : y.getLsbD j = true := by
  rcases h with rfl | rfl
  · exact hj
  · simp at hj

theorem PortSteps.portRead8 (p : Half) (s : State) : PortSteps s (portRead8 p s).2 := by
  obtain ⟨f, n, h, hf⟩ := portRead8_frame p s
  obtain ⟨h1, h2⟩ := fault_mono_of hf
  rw [h]
  exact ⟨rfl, h1, h2, List.prefix_append _ _, fun _ h => h, fun _ h => h⟩

theorem PortSteps.portWrite8 (p : Half) (v : Byte) (s : State) : PortSteps s (portWrite8 p v s) := by
  obtain ⟨pm, ps, f, h, hf, hm, hs⟩ := portWrite8_frame p v s
  obtain ⟨h1, h2⟩ := fault_mono_of hf
  rw [h]
  exact ⟨rfl, h1, h2, List.prefix_append _ _, irr_of hm, irr_of hs⟩

theorem PortSteps.portWrites (ws : List (Half × Byte)) (s : State) : PortSteps s (portWrites ws s) := by
  induction ws generalizing s with
  | nil => exact PortSteps.refl s
  | cons w ws ih => exact (PortSteps.portWrite8 w.1 w.2 s).trans (ih _)

@[simp] theorem portWrites_nil (s : State) : portWrites [] s = s := rfl

@[simp] theorem portWrites_cons (w : Half × Byte) (ws : List (Half × Byte)) (s : State) :
    portWrites (w :: ws) s = portWrites ws (portWrite8 w.1 w.2 s) := rfl

end Sys2Proof.Machine
end

