-- ==== Sys2Proof/Laws/Ops.lean ====
section
/-! SUPPORT. Everything each shared operation can do, said once: the command step, the ports by their devices,
the acknowledgment, the table builder, the decoder, the dispatcher, delivery and traps. -/

namespace Sys2Proof.Machine

/-! ## HOST's read of `RESULT` (R26) -/

/-- Once one of the four reading operations has written `RESULT`, HOST reads it, as often as it likes. -/
theorem hostReadResult_written {s : State} (h : s.resultWritten = true) : hostReadResult s = (s.result, s) := by
  rw [hostReadResult, if_pos h]

/-- HOST's read reaches the count of draws alone. -/
theorem hostReadResult_frame (s : State) :
    ∃ n, (hostReadResult s).2 = { s with draws := n } ∧ (n = s.draws ∨ n = s.draws + 1) := by
  unfold hostReadResult
  split
  · exact ⟨s.draws, rfl, .inl rfl⟩
  · exact ⟨s.draws + 1, rfl, .inr rfl⟩

/-! ## The command step (R95) -/

theorem hostCommand_accepts {op : State → State} {s : State} (h : Accepts s) :
    hostCommand op s = .next (op s) := by
  simp [hostCommand, h.1, h.2]

theorem hostCommand_halted {op : State → State} {s : State} (h : s.halted = true) :
    hostCommand op s = .next s := by
  simp [hostCommand, h]

/-- A command's next state is the state itself while halted, and the operation's otherwise. -/
theorem hostCommand_next {op : State → State} {s t : State} (h : hostCommand op s = .next t) :
    (s.halted = true ∧ t = s) ∨ (Accepts s ∧ t = op s) := by
  unfold hostCommand at h
  split at h
  · exact .inl ⟨‹_›, by cases h; rfl⟩
  · split at h
    · cases h
    · rename_i h1 h2
      exact .inr ⟨⟨by simpa using h1, by simpa using h2⟩, by cases h; rfl⟩

/-- Every operation's meaning is one total function of the state, run by HOST. -/
def opOf : Instr → State → State
  | .readByte port => readByte port
  | .writeByte port value => portWrite8 port value
  | .readWord port => readWord port
  | .writeWord port value => portWrite16 port value
  | .remap offset1 offset2 => remap offset1 offset2
  | .setMask line => updateMask setBit line
  | .clearMask line => updateMask clearBit line
  | .sendEoi line => sendEoi line
  | .readRequestRegister => readPicRegisters ocw3ReadIrr
  | .readServiceRegister => readPicRegisters ocw3ReadIsr
  | .setDescriptor vector handler attributes => setDescriptor vector handler attributes
  | .init => initTable
  | .dispatch errorCode vector => dispatchVector errorCode vector
  | .keyboardDecode => keyboardDecode

theorem exec_eq (i : Instr) (s : State) : exec i s = hostCommand (opOf i) s := by cases i <;> rfl

/-! ## Ports by their devices (R61, R62) -/

@[simp] theorem decodePort_pic1Cmd : decodePort pic1Cmd = .picCmd .master := by decide
@[simp] theorem decodePort_pic2Cmd : decodePort pic2Cmd = .picCmd .slave := by decide
@[simp] theorem decodePort_pic1Data : decodePort pic1Data = .picData .master := by decide
@[simp] theorem decodePort_pic2Data : decodePort pic2Data = .picData .slave := by decide
@[simp] theorem decodePort_kbdDataPort : decodePort kbdDataPort = .kbdData := by decide
@[simp] theorem decodePort_kbdStatusPort : decodePort kbdStatusPort = .kbdStatus := by decide
@[simp] theorem decodePort_cmdPort (c : Chip) : decodePort (cmdPort c) = .picCmd c := by cases c <;> decide
@[simp] theorem decodePort_dataPort (c : Chip) : decodePort (dataPort c) = .picData c := by cases c <;> decide

/-- The decoded set of R62. -/
theorem decodePort_undecoded_iff (p : Half) : decodePort p = .undecoded ↔ p ∉ decodedPorts := by
  simp only [decodedPorts, List.mem_cons, List.not_mem_nil, or_false, not_or]
  unfold decodePort pic1Cmd pic1Data pic2Cmd pic2Data kbdDataPort kbdStatusPort
  by_cases h1 : p = 0x20
  · simp [h1]
  by_cases h2 : p = 0x21
  · simp [h2]
  by_cases h3 : p = 0xA0
  · simp [h3]
  by_cases h4 : p = 0xA1
  · simp [h4]
  by_cases h5 : p = 0x60
  · simp [h5]
  by_cases h6 : p = 0x64
  · simp [h6]
  rw [if_neg h1, if_neg h2, if_neg h3, if_neg h4, if_neg h5, if_neg h6]
  exact ⟨fun _ => ⟨h1, h2, h3, h4, h5, h6⟩, fun _ => rfl⟩

theorem portWrite8_cmdPort (c : Chip) (b : Byte) (s : State) :
    portWrite8 (cmdPort c) b s = picCmdWrite c b (s.trace (wrote8 (cmdPort c) b)) := by
  simp [portWrite8, deviceWrite, wrote8]

theorem portWrite8_dataPort (c : Chip) (b : Byte) (s : State) :
    portWrite8 (dataPort c) b s = picDataWrite c b (s.trace (wrote8 (dataPort c) b)) := by
  simp [portWrite8, deviceWrite, wrote8]

/-! ## The acknowledgment (R170) -/

/-- Clearing the lowest set bit is `b & (b - 1)`. -/
theorem clear_lowest_eq : ∀ b : Byte,
    (match lowestSet b with | some i => clearBit b i | none => b) = dropLowest b := by decide +kernel

theorem endOfInterrupt_eq (p : Pic) : p.endOfInterrupt = acknowledged p := by
  have h := clear_lowest_eq p.isr
  unfold Pic.endOfInterrupt acknowledged
  rw [← h]
  cases lowestSet p.isr <;> rfl

/-- Everything one written end-of-interrupt does. -/
theorem picCmdWrite_eoi (c : Chip) (s : State) :
    picCmdWrite c ocw2Eoi s =
      if Operating c s then s.setPic c (acknowledged (s.pic c)) else s.raise .picUnmodelled := by
  unfold picCmdWrite
  rw [if_neg (by decide)]
  by_cases h : (s.pic c).init = .operating
  · rw [if_neg (by simp [h]), if_pos rfl, if_pos h, endOfInterrupt_eq]
  · rw [if_pos h, if_neg h]

/-! ## Requests (R183) -/

theorem Pic.noneInService_iff (p : Pic) (i : Nat) :
    p.noneInService i = true ↔ ∀ j ≤ i, p.isr.getLsbD j = false := by
  simp [Pic.noneInService]

/-- The four conditions of a request. -/
theorem Pic.requests_iff (p : Pic) (pending : Bool) (i : Nat) :
    p.requests pending i = true ↔ p.init = .operating ∧ pending = true ∧ p.imr.getLsbD i = false ∧
      ∀ j ≤ i, p.isr.getLsbD j = false := by
  simp [Pic.requests, Pic.noneInService_iff, and_assoc]

theorem lowestOf_isSome_iff (p : Nat → Bool) : (lowestOf p).isSome = true ↔ ∃ i < 8, p i = true := by
  simp [lowestOf]

/-! ## Lines (R126) -/

theorem lineTarget_bad {line : Byte} (h : 15 < line.toNat) : lineTarget line = none := by
  simp [lineTarget, h]

theorem lineTarget_good {line : Byte} (h : line.toNat ≤ 15) :
    lineTarget line = some ⟨dataPort (lineChip line), cmdPort (lineChip line), lineIndex line, lineChip line⟩ := by
  unfold lineTarget lineChip lineIndex
  rw [if_neg (by omega)]
  by_cases h8 : line.toNat < 8
  · simp [h8, dataPort, cmdPort, Nat.mod_eq_of_lt h8]
  · have : line.toNat % 8 = line.toNat - 8 := by omega
    simp [h8, dataPort, cmdPort, this]

/-! ## Which operations are port accesses and nothing else -/

theorem PortSteps.raise_picUnmodelled (s : State) : PortSteps s (s.raise .picUnmodelled) := by
  obtain ⟨h1, h2⟩ := fault_mono_of (s := s) (f := (s.raise .picUnmodelled).fault) (.inr rfl)
  exact ⟨rfl, h1, h2, List.prefix_rfl, fun _ h => h, fun _ h => h⟩

theorem PortSteps.remap (o1 o2 : Byte) (s : State) : PortSteps s (remap o1 o2 s) := PortSteps.portWrites _ s

theorem PortSteps.updateMask {line : Byte} (h : line.toNat ≤ 15) (u : Byte → Nat → Byte) (s : State) :
    PortSteps s (updateMask u line s) := by
  simp only [Machine.updateMask, lineTarget_good h]
  exact (PortSteps.portRead8 _ s).trans (PortSteps.portWrite8 _ _ _)

theorem PortSteps.sendEoi {line : Byte} (h : line.toNat ≤ 15) (s : State) : PortSteps s (sendEoi line s) := by
  simp only [Machine.sendEoi, lineTarget_good h]
  split <;> exact PortSteps.portWrites _ s

/-- The diagnostic reads are port accesses and then `RESULT`. -/
theorem readPicRegisters_frame (b : Byte) (s : State) :
    ∃ t v, PortSteps s t ∧ readPicRegisters b s = t.setResult v :=
  ⟨_, _, ((PortSteps.portWrites _ s).trans (PortSteps.portRead8 _ _)).trans (PortSteps.portRead8 _ _), rfl⟩

/-- READ_BYTE is a port access and then `RESULT`. -/
theorem readByte_frame (p : Half) (s : State) :
    ∃ t v, PortSteps s t ∧ readByte p s = t.setResult v := ⟨_, _, PortSteps.portRead8 p s, rfl⟩

/-! ## Keyboard decoder (R160) -/

theorem portRead8_keyboard (s : State) :
    portRead8 kbdDataPort s = (keyboardByte s,
      { s with portTrace := s.portTrace ++ [read8 kbdDataPort (keyboardByte s)],
               draws := if s.kbdWritten then s.draws else s.draws + 1 }) := by
  unfold portRead8 deviceRead kbdDataRead keyboardByte
  rw [decodePort_kbdDataPort]
  by_cases h : s.kbdWritten = true
  · simp only [if_pos h]; rfl
  · simp only [if_neg h]; rfl

theorem decodeScanCode_eq (b : Byte) (s : State) :
    decodeScanCode b s = { s with charOut := s.charOut ++ decodedChars s.cfg b } := by
  unfold decodeScanCode decodedChars kbdReleaseBit
  by_cases h0 : b = kbdExtPrefix
  · subst h0; simp [kbdExtPrefix]
  · rw [if_neg h0]
    split
    · simp
    · split
      · simp
      · rfl

/-- Everything KEYBOARD_DECODE does. -/
theorem keyboardDecode_eq (s : State) :
    keyboardDecode s = { s with
      portTrace := s.portTrace ++ [read8 kbdDataPort (keyboardByte s)],
      charOut := s.charOut ++ decodedChars s.cfg (keyboardByte s),
      draws := if s.kbdWritten then s.draws else s.draws + 1 } := by
  unfold keyboardDecode
  rw [portRead8_keyboard, decodeScanCode_eq]

theorem decodedChars_cases (c : Config) (b : Byte) :
    decodedChars c b = [] ∨ ∃ x, x ≠ 0 ∧ decodedChars c b = [x] := by
  unfold decodedChars
  split
  · exact .inl rfl
  · split
    · exact .inl rfl
    · exact .inr ⟨_, ‹_›, rfl⟩

/-! ## Table builder (R140, R141) -/

theorem setDescriptor_bad {v : Word} (h : 255 < v.toNat) (a : Word) (x : Byte) (s : State) :
    setDescriptor v a x s = s.raise .badVector := by simp [setDescriptor, h]

theorem setDescriptor_good {v : Word} (h : v.toNat ≤ 255) (a : Word) (x : Byte) (s : State) :
    setDescriptor v a x s = s.writeGate v.toNat (packGate a x) := by
  unfold setDescriptor
  rw [if_neg (by omega)]

theorem populate_succ {n : Nat} (hn : n < 256) (s : State) :
    populate (n + 1) s = (populate n s).writeGate n (packGate (trampAt s.cfg n) gateAttr) := by
  have hv : (BitVec.ofNat 32 n).toNat = n := by simp; omega
  rw [populate, setDescriptor_good (by omega), hv]

/-- `populate` reaches the table and `VEC_SET` alone. -/
theorem populate_frame {n : Nat} (hn : n ≤ 256) (s : State) :
    populate n s = { s with mem := (populate n s).mem, vecSet := (populate n s).vecSet } := by
  induction n with
  | zero => rfl
  | succ n ih =>
    rw [populate_succ (by omega)]
    conv_lhs => rw [ih (by omega)]
    conv_rhs => rw [ih (by omega)]
    rfl

theorem populate_cfg {n : Nat} (hn : n ≤ 256) (s : State) : (populate n s).cfg = s.cfg := by
  rw [populate_frame hn]

/-- The gates after `populate n`. -/
theorem populate_gate {n : Nat} (hn : n ≤ 256) (s : State) (v : Nat) :
    (populate n s).gate v = if v < n then packGate (trampAt s.cfg v) gateAttr else s.gate v := by
  induction n with
  | zero => simp [populate]
  | succ n ih =>
    rw [populate_succ (by omega), State.gate_writeGate, ih (by omega)]
    by_cases h : v = n
    · subst h; simp
    · have : v < n + 1 ↔ v < n := by omega
      simp [h, this]

/-- `VEC_SET` after `populate n`. -/
theorem populate_vecSetAt {n : Nat} (hn : n ≤ 256) (s : State) {v : Nat} (hv : v < 256) :
    (populate n s).vecSetAt v = (decide (v < n) || s.vecSetAt v) := by
  induction n with
  | zero => simp [populate]
  | succ n ih =>
    rw [populate_succ (by omega), State.vecSetAt_writeGate _ _ _ _ hv, ih (by omega)]
    by_cases h : v = n
    · subst h; simp
    · have : v < n + 1 ↔ v < n := by omega
      simp [h, this]

/-- The bytes outside the gates `populate` writes. -/
theorem populate_read {n : Nat} (hn : n ≤ 256) (s : State) {a : Nat}
    (ha : ¬(gateAddr s.cfg 0 ≤ a ∧ a < gateAddr s.cfg n)) : (populate n s).mem.read a = s.mem.read a := by
  induction n with
  | zero => rfl
  | succ n ih =>
    simp only [gateAddr, gateBytes] at ha ih
    rw [populate_succ (by omega), State.writeGate_mem, populate_cfg (by omega), Memory.read_writeGate,
      if_neg (by simp only [gateAddr, gateBytes]; omega), ih (by omega) (by omega)]

theorem populate_wf {n : Nat} (hn : n ≤ 256) {s : State} (h : s.mem.wf) : (populate n s).mem.wf := by
  induction n with
  | zero => exact h
  | succ n ih =>
    rw [populate_succ (by omega), State.writeGate_mem]
    exact Memory.wf_writeGate _ _ (ih (by omega))

theorem populate_mem {n : Nat} (hn : n ≤ 256) {s : State} {x : Host.Cell} (h : x ∈ (populate n s).mem) :
    (gateAddr s.cfg 0 ≤ x.1 ∧ x.1 < gateAddr s.cfg n) ∨ x ∈ s.mem := by
  induction n with
  | zero => exact .inr h
  | succ n ih =>
    rw [populate_succ (by omega), State.writeGate_mem, populate_cfg (by omega)] at h
    simp only [gateAddr, gateBytes] at ih h ⊢
    rcases Memory.mem_writeGate h with h | h
    · left; omega
    · rcases ih (by omega) h with h | h
      · left; omega
      · exact .inr h

/-! ## Dispatcher (R150, R151) -/

theorem vectorLine_toNat {v : Word} (h1 : 32 ≤ v.toNat) (h2 : v.toNat ≤ 47) :
    (vectorLine v).toNat = v.toNat - 32 := by
  have h32 : (irqBase : Word).toNat = 32 := rfl
  simp only [vectorLine, BitVec.toNat_setWidth, BitVec.toNat_sub, h32]
  omega

/-- The classes of R150, with what each says of the vector. -/
theorem classify_cases (v : Word) :
    (v = 33 ∧ classify v = .keyboardIrq) ∨
    (32 ≤ v.toNat ∧ v.toNat ≤ 47 ∧ v.toNat ≠ 33 ∧ classify v = .otherIrq (vectorLine v)) ∨
    ((v.toNat < 32 ∨ 47 < v.toNat) ∧ classify v = .cpuFault v) := by
  unfold classify
  by_cases h : v = kbdVector
  · left; simp [h, kbdVector]
  · have hn : v.toNat ≠ 33 := fun hc => h (BitVec.eq_of_toNat_eq hc)
    rw [if_neg h]
    by_cases h2 : irqBase ≤ v ∧ v ≤ irqLast
    · right; left
      rw [if_pos h2]
      simp only [irqBase, irqLast, BitVec.le_def] at h2
      exact ⟨h2.1, h2.2, hn, rfl⟩
    · right; right
      rw [if_neg h2]
      simp only [irqBase, irqLast, BitVec.le_def] at h2
      refine ⟨?_, rfl⟩
      have h3 : ¬(32 ≤ v.toNat ∧ v.toNat ≤ 47) := h2
      omega

/-- Everything DISPATCH can do: the decoder's effect and an acknowledgment, an acknowledgment, or the fatal
path. -/
theorem dispatchVector_cases (e v : Word) (s : State) :
    (v = 33 ∧ dispatchVector e v s = sendEoi kbdLine (keyboardDecode s)) ∨
    (32 ≤ v.toNat ∧ v.toNat ≤ 47 ∧ v.toNat ≠ 33 ∧ dispatchVector e v s = sendEoi (vectorLine v) s) ∨
    ((v.toNat < 32 ∨ 47 < v.toNat) ∧ dispatchVector e v s = fatal e v s) := by
  unfold dispatchVector
  rcases classify_cases v with ⟨h, hc⟩ | ⟨h1, h2, h3, hc⟩ | ⟨h, hc⟩
  · left; exact ⟨h, by rw [hc]⟩
  · right; left; exact ⟨h1, h2, h3, by rw [hc]⟩
  · right; right; exact ⟨h, by rw [hc]⟩

/-! ## Traps (R182 to R188) -/

/-- The trampoline found is one of the 48. -/
theorem trampIndex_some {c : Config} {h : Word} {w : Nat} (hw : trampIndex c h = some w) :
    w < 48 ∧ trampAt c w = h := by
  unfold trampIndex at hw
  have h1 := List.mem_of_find?_eq_some hw
  have h2 := List.find?_some hw
  simp [populatedCount] at h1 h2
  exact ⟨h1, h2⟩

/-- Everything a delivery can do: fault outside the table, `BAD_DELIVERY`, or one dispatch. -/
theorem deliver_cases (v : Byte) (e : Word) (s : State) :
    (s.idtr.loaded = true ∧ deliveryInTable s v = false ∧ deliver v e s = .fault .outsideTable) ∨
    deliver v e s = .next (s.raise .badDelivery) ∨
    ∃ w, w < 48 ∧ deliver v e s = .next (dispatchVector e (BitVec.ofNat 32 w) s) := by
  unfold deliver
  cases hl : s.idtr.loaded
  · right; left; rfl
  · cases ht : deliveryInTable s v
    · left; simp
    · right
      simp only [Bool.not_true, Bool.false_eq_true, if_false]
      split
      · exact .inl rfl
      · split
        · exact .inr ⟨_, (trampIndex_some ‹_›).1, rfl⟩
        · exact .inl rfl

/-- Everything a trap can do. -/
theorem takeTrap_cases (v : Byte) (e : Word) (s : State) :
    (s.idtr.loaded = true ∧ deliveryInTable s v = false ∧ takeTrap v e s = .fault .outsideTable) ∨
    takeTrap v e s = .next ((s.setIf false).raise .badDelivery) ∨
    ∃ w, w < 48 ∧ takeTrap v e s =
      .next (returnFromTrap s.ifFlag (dispatchVector e (BitVec.ofNat 32 w) (s.setIf false))) := by
  rcases deliver_cases v e (s.setIf false) with ⟨h1, h2, h⟩ | h | ⟨w, hw, h⟩
  · exact .inl ⟨h1, h2, by simp [takeTrap, h]⟩
  · right; left
    rw [takeTrap, h]
    simp [returnFromTrap, State.running, State.hasFault_raise]
  · exact .inr (.inr ⟨w, hw, by rw [takeTrap, h]⟩)

end Sys2Proof.Machine
end

