-- ==== Sys2Proof/Laws/PerInstr.lean ====
section
/-! SUPPORT. Per operation: the encoder's word is one of its row (30_encoding.md R93): the opcode stands in
`OP` and every reserved bit is 0. -/

namespace Sys2Proof.Laws.EncodingShape

/-- The word of an operation matches the operation's row of R93. -/
def Statement (i : Instr) : Prop := i.mnemonic.matchesWord (encode i) = true

theorem readByte (port : Half) : Statement (.readByte port) := by
  refine (Mnemonic.matchesWord_packWord _ _ _ _ _).mpr ⟨rfl, setWidth_half_and_mask _, ?_, ?_⟩ <;> exact BitVec.zero_and

theorem writeByte (port : Half) (value : Byte) : Statement (.writeByte port value) := by
  refine (Mnemonic.matchesWord_packWord _ _ _ _ _).mpr ⟨rfl, setWidth_half_and_mask _, ?_, ?_⟩
  · exact BitVec.zero_and
  · exact BitVec.and_zero

theorem readWord (port : Half) : Statement (.readWord port) := by
  refine (Mnemonic.matchesWord_packWord _ _ _ _ _).mpr ⟨rfl, setWidth_half_and_mask _, ?_, ?_⟩ <;> exact BitVec.zero_and

theorem writeWord (port value : Half) : Statement (.writeWord port value) := by
  refine (Mnemonic.matchesWord_packWord _ _ _ _ _).mpr
    ⟨rfl, setWidth_half_and_mask _, setWidth_half_and_mask _, ?_⟩
  exact BitVec.zero_and

theorem remap (offset1 offset2 : Byte) : Statement (.remap offset1 offset2) := by
  refine (Mnemonic.matchesWord_packWord _ _ _ _ _).mpr
    ⟨rfl, setWidth_byte_and_mask _, setWidth_byte_and_mask _, ?_⟩
  exact BitVec.zero_and

theorem setMask (line : Byte) : Statement (.setMask line) := by
  refine (Mnemonic.matchesWord_packWord _ _ _ _ _).mpr ⟨rfl, ?_, ?_, BitVec.and_zero⟩ <;> exact BitVec.zero_and

theorem clearMask (line : Byte) : Statement (.clearMask line) := by
  refine (Mnemonic.matchesWord_packWord _ _ _ _ _).mpr ⟨rfl, ?_, ?_, BitVec.and_zero⟩ <;> exact BitVec.zero_and

theorem sendEoi (line : Byte) : Statement (.sendEoi line) := by
  refine (Mnemonic.matchesWord_packWord _ _ _ _ _).mpr ⟨rfl, ?_, ?_, BitVec.and_zero⟩ <;> exact BitVec.zero_and

theorem readRequestRegister : Statement .readRequestRegister := by
  refine (Mnemonic.matchesWord_packWord _ _ _ _ _).mpr ⟨rfl, ?_, ?_, ?_⟩ <;> exact BitVec.zero_and

theorem readServiceRegister : Statement .readServiceRegister := by
  refine (Mnemonic.matchesWord_packWord _ _ _ _ _).mpr ⟨rfl, ?_, ?_, ?_⟩ <;> exact BitVec.zero_and

theorem setDescriptor (vector handler : Word) (attributes : Byte) :
    Statement (.setDescriptor vector handler attributes) := by
  exact (Mnemonic.matchesWord_packWord _ _ _ _ _).mpr
    ⟨rfl, BitVec.and_zero, BitVec.and_zero, BitVec.and_zero⟩

theorem init : Statement .init := by
  refine (Mnemonic.matchesWord_packWord _ _ _ _ _).mpr ⟨rfl, ?_, ?_, ?_⟩ <;> exact BitVec.zero_and

theorem dispatch (errorCode vector : Word) : Statement (.dispatch errorCode vector) := by
  refine (Mnemonic.matchesWord_packWord _ _ _ _ _).mpr ⟨rfl, BitVec.and_zero, BitVec.and_zero, ?_⟩
  exact BitVec.zero_and

theorem keyboardDecode : Statement .keyboardDecode := by
  refine (Mnemonic.matchesWord_packWord _ _ _ _ _).mpr ⟨rfl, ?_, ?_, ?_⟩ <;> exact BitVec.zero_and

end Sys2Proof.Laws.EncodingShape
end

