-- ==== Sys2Proof/Laws/Step.lean ====
section
/-! SUPPORT. Everything an operation, a trap and a step can do, said once (R95, R182 to R188, R220): the
facts an invariant or a frame is derived from without unfolding the machine. -/

namespace Sys2Proof.Machine

/-- What a raised code other than `BAD_DELIVERY`, or port accesses, and at most one character leave. -/
structure Quiet (s t : State) : Prop where
  only : t = { s with picM := t.picM, picS := t.picS, fault := t.fault, portTrace := t.portTrace,
                      draws := t.draws, charOut := t.charOut }
  faultMono : ∀ j < 8, s.fault.getLsbD j = true → t.fault.getLsbD j = true
  faultHigh : ∀ j, 6 ≤ j → t.fault.getLsbD j = s.fault.getLsbD j
  trace : s.portTrace <+: t.portTrace
  char : t.charOut = s.charOut ∨ ∃ c, c ≠ 0 ∧ t.charOut = s.charOut ++ [c]
  irrM : ∀ j, t.picM.irr.getLsbD j = true → s.picM.irr.getLsbD j = true
  irrS : ∀ j, t.picS.irr.getLsbD j = true → s.picS.irr.getLsbD j = true

theorem getLsbD_high_byte {b c : Byte} {j : Nat} (h : 8 ≤ j) : b.getLsbD j = c.getLsbD j := by
  rw [BitVec.getLsbD_of_ge b j h, BitVec.getLsbD_of_ge c j h]

theorem PortSteps.quiet {s t : State} (h : PortSteps s t) : Quiet s t where
  only := by
    have := h.only
    unfold OnlyPortsChanged at this
    rw [this]
  faultMono := h.faultMono
  faultHigh j hj := by
    by_cases h8 : j < 8
    · exact h.faultOnly j h8 (by omega)
    · exact getLsbD_high_byte (by omega)
  trace := h.trace
  char := .inl (by rw [h.only])
  irrM := h.irrM
  irrS := h.irrS

theorem Quiet.raise {c : FaultCode} (hc : c ≠ .badDelivery) (s : State) : Quiet s (s.raise c) where
  only := rfl
  faultMono j hj h := by rw [State.raise_getLsbD c s hj, h]; simp
  faultHigh j hj := by
    by_cases h8 : j < 8
    · have : j ≠ c.bit := by
        cases c <;> simp [FaultCode.bit] at hc ⊢ <;> omega
      rw [State.raise_getLsbD c s h8]
      simp [this]
    · exact getLsbD_high_byte (by omega)
  trace := List.prefix_rfl
  char := .inl rfl
  irrM _ h := h
  irrS _ h := h

/-- One decode (R160) and no more. -/
theorem Quiet.keyboardDecode (s : State) : Quiet s (keyboardDecode s) := by
  rw [keyboardDecode_eq]
  exact
    { only := rfl
      faultMono := fun _ _ h => h
      faultHigh := fun _ _ => rfl
      trace := List.prefix_append _ _
      char := by
        rcases decodedChars_cases s.cfg (keyboardByte s) with h | ⟨x, hx, h⟩
        · exact .inl (by simp [h])
        · exact .inr ⟨x, hx, by simp [h]⟩
      irrM := fun _ h => h
      irrS := fun _ h => h }

/-- Port accesses after a quiet operation. -/
theorem Quiet.then_ports {s t u : State} (h : Quiet s t) (k : PortSteps t u) : Quiet s u where
  only := by
    have h1 := h.only
    have h2 := k.only
    unfold OnlyPortsChanged at h2
    rw [h2]
    conv_lhs => rw [h1]
  faultMono j hj hs := k.faultMono j hj (h.faultMono j hj hs)
  faultHigh j hj := (k.quiet.faultHigh j hj).trans (h.faultHigh j hj)
  trace := h.trace.trans k.trace
  char := by
    have : u.charOut = t.charOut := by rw [k.only]
    rw [this]
    exact h.char
  irrM j hj := h.irrM j (k.irrM j hj)
  irrS j hj := h.irrS j (k.irrS j hj)

/-- Everything a dispatch does: a quiet change, or the fatal path (R151, R152). -/
theorem dispatchVector_effect (e v : Word) (s : State) :
    Quiet s (dispatchVector e v s) ∨ dispatchVector e v s = fatal e v s := by
  rcases dispatchVector_cases e v s with ⟨-, h⟩ | ⟨h1, h2, -, h⟩ | ⟨-, h⟩
  · rw [h]
    exact .inl ((Quiet.keyboardDecode s).then_ports (PortSteps.sendEoi (by decide) _))
  · have := vectorLine_toNat h1 h2
    rw [h]
    exact .inl (PortSteps.sendEoi (by omega) s).quiet
  · exact .inr h

/-- Everything an operation does: a quiet change, which `RESULT` may follow; one gate; the table; or the
fatal path. -/
theorem opOf_effect (i : Instr) (s : State) :
    Quiet s (opOf i s) ∨
    (i.mnemonic ∈ [.readByte, .readWord, .readRequestRegister, .readServiceRegister] ∧
      ∃ t v, PortSteps s t ∧ opOf i s = t.setResult v) ∨
    (∃ v a x, i = .setDescriptor v a x ∧ v.toNat ≤ 255 ∧ opOf i s = s.writeGate v.toNat (packGate a x)) ∨
    (i = .init ∧ s.idtr.loaded = false ∧ opOf i s = ((populate 48 s).loadIdtr).setIf true) ∨
    (∃ e v, i = .dispatch e v ∧ opOf i s = fatal e v s) := by
  have bad : ∀ line : Byte, ∀ u, line.toNat ≤ 15 ∨ updateMask u line s = s.raise .badLine := by
    intro line u
    by_cases h : line.toNat ≤ 15
    · exact .inl h
    · exact .inr (by simp [updateMask, lineTarget_bad (show 15 < line.toNat by omega)])
  have refused : Quiet s (s.raise .portWidth) := Quiet.raise (by decide) s
  cases i with
  | readByte p => exact .inr (.inl ⟨by simp [Instr.mnemonic], readByte_frame p s⟩)
  | writeByte p v => exact .inl (PortSteps.portWrite8 p v s).quiet
  | readWord p =>
    by_cases h : coversDecoded p = true
    · exact .inl (by simp only [opOf, readWord, portRead16, h, if_true]; exact refused)
    · refine .inr (.inl ⟨by simp [Instr.mnemonic], (s.draw16.2.trace ⟨.read, p, .w16 s.draw16.1⟩), s.draw16.1, ?_, ?_⟩)
      · exact ⟨rfl, fun _ _ h => h, fun _ _ _ => rfl, List.prefix_append _ _, fun _ h => h, fun _ h => h⟩
      · simp [opOf, readWord, portRead16, h]
  | writeWord p v =>
    refine .inl ?_
    by_cases h : coversDecoded p = true
    · simp only [opOf, portWrite16, h, if_true]; exact refused
    · simp only [opOf, portWrite16, h]
      exact ⟨rfl, fun _ _ h => h, fun _ _ => rfl, List.prefix_append _ _, .inl rfl, fun _ h => h, fun _ h => h⟩
  | remap o1 o2 => exact .inl (PortSteps.remap o1 o2 s).quiet
  | setMask line =>
    refine .inl ?_
    rcases bad line setBit with h | h
    · exact (PortSteps.updateMask h _ s).quiet
    · simp only [opOf, h]; exact Quiet.raise (by decide) s
  | clearMask line =>
    refine .inl ?_
    rcases bad line clearBit with h | h
    · exact (PortSteps.updateMask h _ s).quiet
    · simp only [opOf, h]; exact Quiet.raise (by decide) s
  | sendEoi line =>
    refine .inl ?_
    by_cases h : line.toNat ≤ 15
    · exact (PortSteps.sendEoi h s).quiet
    · simp only [opOf, sendEoi, lineTarget_bad (show 15 < line.toNat by omega)]
      exact Quiet.raise (by decide) s
  | readRequestRegister => exact .inr (.inl ⟨by decide, readPicRegisters_frame _ s⟩)
  | readServiceRegister => exact .inr (.inl ⟨by decide, readPicRegisters_frame _ s⟩)
  | setDescriptor v a x =>
    by_cases h : v.toNat ≤ 255
    · exact .inr (.inr (.inl ⟨v, a, x, rfl, h, setDescriptor_good h a x s⟩))
    · refine .inl ?_
      simp only [opOf, setDescriptor_bad (show 255 < v.toNat by omega)]
      exact Quiet.raise (by decide) s
  | init =>
    cases h : s.idtr.loaded
    · exact .inr (.inr (.inr (.inl ⟨rfl, rfl, by simp [opOf, initTable, h, populatedCount]⟩)))
    · refine .inl ?_
      simp only [opOf, initTable, h, if_true]
      exact Quiet.raise (by decide) s
  | dispatch e v =>
    rcases dispatchVector_effect e v s with h | h
    · exact .inl h
    · exact .inr (.inr (.inr (.inr ⟨e, v, rfl, h⟩)))
  | keyboardDecode => exact .inl (Quiet.keyboardDecode s)

/-- Everything a trap does that goes on: `BAD_DELIVERY`, a quiet change with `IF` restored, or the fatal path
with `IF` cleared; and it stops on a delivery outside the table alone. -/
theorem takeTrap_effect (v : Byte) (e : Word) (s : State) (hr : s.running = true) :
    (s.idtr.loaded = true ∧ deliveryInTable s v = false ∧ takeTrap v e s = .fault .outsideTable) ∨
    takeTrap v e s = .next ((s.setIf false).raise .badDelivery) ∨
    (∃ t, takeTrap v e s = .next t ∧ Quiet s t) ∨
    ∃ w, takeTrap v e s = .next (fatal e w (s.setIf false)) := by
  rcases takeTrap_cases v e s with h | h | ⟨w, -, h⟩
  · exact .inl h
  · exact .inr (.inl h)
  · rcases dispatchVector_effect e (BitVec.ofNat 32 w) (s.setIf false) with k | k
    · refine .inr (.inr (.inl ⟨_, h, ?_⟩))
      have ho := k.only
      have hrun : (dispatchVector e (BitVec.ofNat 32 w) (s.setIf false)).running = true := by
        have hf := k.faultHigh 6 (by omega)
        have hh : (dispatchVector e (BitVec.ofNat 32 w) (s.setIf false)).halted = s.halted := by rw [ho]; rfl
        simp only [State.running, State.hasFault, FaultCode.bit, hh, hf] at hr ⊢
        exact hr
      rw [returnFromTrap, if_pos hrun]
      exact
        { only := by conv_lhs => rw [ho]
                     rfl
          faultMono := k.faultMono
          faultHigh := k.faultHigh
          trace := k.trace
          char := k.char
          irrM := k.irrM
          irrS := k.irrS }
    · refine .inr (.inr (.inr ⟨BitVec.ofNat 32 w, ?_⟩))
      rw [h, k, returnFromTrap, if_neg (by simp [State.running, fatal, State.halt])]

/-- A command's step, whatever the word (R95). -/
theorem hostStep_next {w : CommandWord} {s t : State} (h : hostStep w s = .next t) :
    (s.halted = true ∧ t = s) ∨
    (Accepts s ∧ ((∃ why, decodeWord w = .illegal why ∧ t = s.raise .illegalCmd) ∨
      ∃ i, decodeWord w = .ok i ∧ t = opOf i s)) := by
  unfold hostStep at h
  split at h
  · rename_i i hi
    rw [exec_eq] at h
    rcases hostCommand_next h with k | ⟨k1, k2⟩
    · exact .inl k
    · exact .inr ⟨k1, .inr ⟨i, hi, k2⟩⟩
  · rename_i why hi
    rcases hostCommand_next h with k | ⟨k1, k2⟩
    · exact .inl k
    · exact .inr ⟨k1, .inl ⟨why, hi, k2⟩⟩

/-- What accepting a line changes, and nothing else (R184). -/
theorem acceptLine_frame {s t : State} {v : Byte} (h : acceptLine s = some (v, t)) :
    t = { s with picM := t.picM, picS := t.picS } ∧
    (∀ j, t.picM.irr.getLsbD j = true → s.picM.irr.getLsbD j = true) ∧
    ∀ j, t.picS.irr.getLsbD j = true → s.picS.irr.getLsbD j = true := by
  have clear : ∀ (b : Byte) (i j : Nat), (clearBit b i).getLsbD j = true → b.getLsbD j = true := by
    intro b i j hj
    simp only [clearBit, BitVec.getLsbD_and, Bool.and_eq_true] at hj
    exact hj.1
  unfold acceptLine at h
  split at h
  · cases h
  · split at h
    · split at h
      · cases h
        exact ⟨rfl, fun _ h => h, clear _ _⟩
      · cases h
    · cases h
      exact ⟨rfl, clear _ _, fun _ h => h⟩

/-! ## Delivery over the table INIT builds, and the acknowledgment -/

/-- Distinct trampolines are told apart by their addresses (R8, R185). -/
theorem trampIndex_trampAt {c : Config} (hc : c.tramp.toList.Nodup) {v : Nat} (hv : v < 48) :
    trampIndex c (trampAt c v) = some v := by
  unfold trampIndex
  rw [List.find?_range_eq_some]
  refine ⟨by simp, by simpa [populatedCount] using hv, ?_⟩
  intro j hj
  have hj' : j < 48 := by omega
  simp only [trampAt, Bool.not_eq_true', beq_eq_false_iff_ne]
  rw [Vector.getElem?_eq_getElem hv, Vector.getElem?_eq_getElem hj']
  simp only [Option.getD_some]
  intro he
  have h := List.Nodup.getElem_inj_iff hc (i := j) (j := v) (hi := by simpa using hj') (hj := by simpa using hv)
  simp only [Vector.getElem_toList] at h
  have := h.mp he
  omega

/-- Every delivery through the register INIT loads is an access the table allows (R185). -/
theorem deliveryAddr_loaded {s : State} (hi : IdtrLoaded s) (v : Byte) :
    s.mem.readGate (deliveryAddr s v) = s.gate v.toNat ∧ deliveryInTable s v = true := by
  have hi : s.idtr = { loaded := true, base := s.cfg.idtBase, limit := 0x07FF } := hi
  have hd : deliveryAddr s v = gateAddr s.cfg v.toNat := by simp only [deliveryAddr, gateAddr, hi]
  refine ⟨by rw [hd]; rfl, ?_⟩
  simp only [deliveryInTable, hd, gateAddr, gateBytes, idtEntries, hi]
  simp
  omega

/-- A vector the table does not route sets `BAD_DELIVERY` and nothing else (R185). -/
theorem deliver_unroutable {s : State} {v : Byte} (h : Unroutable s v.toNat) (e : Word) :
    deliver v e s = .next (s.raise .badDelivery) := by
  unfold deliver
  rcases h with hl | ⟨hi, hg⟩
  · simp [hl]
  · obtain ⟨ha, ht⟩ := deliveryAddr_loaded hi v
    have hl : s.idtr.loaded = true := by rw [show s.idtr = _ from hi]
    simp only [hl, ht, ha]
    simp only [Bool.not_true, Bool.false_eq_true, if_false]
    split
    · rfl
    · rename_i ha
      split
      · rename_i w hw
        obtain ⟨hw1, hw2⟩ := trampIndex_some hw
        rcases hg with hg | hg
        · exact absurd hg ha
        · exact absurd hw2 (hg w hw1)
      · rfl

/-- A vector the table routes to trampoline `w` is the dispatch of `w` (R185). -/
theorem deliver_routed {s : State} (hc : s.cfg.tramp.toList.Nodup) {v : Byte} {w : Nat}
    (h : RoutesTo s v.toNat w) (e : Word) :
    deliver v e s = .next (dispatchVector e (BitVec.ofNat 32 w) s) := by
  obtain ⟨hi, hg, hw, ht⟩ := h
  obtain ⟨ha, hin⟩ := deliveryAddr_loaded hi v
  have hl : s.idtr.loaded = true := by rw [show s.idtr = _ from hi]
  unfold deliver
  simp only [hl, hin, ha, hg, ← ht, trampIndex_trampAt hc hw]
  simp

/-- Delivery through a gate INIT built is the dispatch of its vector (R185, R189). -/
theorem deliver_built {s : State} (hc : configOk s.cfg) (ht : TableBuilt s) {v : Byte} (hv : v.toNat < 48)
    (e : Word) : deliver v e s = .next (dispatchVector e (v.setWidth 32) s) := by
  have hg := ht.2 _ hv
  have h : RoutesTo s v.toNat v.toNat :=
    ⟨ht.1, by rw [hg]; exact gateAttrOf_packGate _ _, hv, by rw [hg]; exact (gateHandler_packGate _ _).symm⟩
  have hw : BitVec.ofNat 32 v.toNat = v.setWidth 32 := by
    apply BitVec.eq_of_toNat_eq
    simp
  rw [deliver_routed hc.2.2.1 h, hw]

/-- One acknowledgment written to a controller, with its record (R123, R170). -/
theorem portWrite8_eoi (c : Chip) (s : State) :
    portWrite8 (cmdPort c) ocw2Eoi s =
      if Operating c s then (s.trace (wrote8 (cmdPort c) ocw2Eoi)).setPic c (acknowledged (s.pic c))
      else (s.trace (wrote8 (cmdPort c) ocw2Eoi)).raise .picUnmodelled := by
  rw [portWrite8_cmdPort, picCmdWrite_eoi]
  cases c <;> rfl

/-! ## Controllers inside an initialisation sequence, and the selects -/

/-- A read of a controller inside an initialisation sequence (R171, R173). -/
theorem portRead8_insideInit {c : Chip} {s : State} (h : ¬Operating c s) {p : Half}
    (hp : p = cmdPort c ∨ p = dataPort c) :
    portRead8 p s = (Config.freeByte s.draws,
      { s with fault := s.fault ||| 0x20, draws := s.draws + 1,
               portTrace := s.portTrace ++ [read8 p (Config.freeByte s.draws)] }) := by
  have h : (s.pic c).init ≠ .operating := h
  rcases hp with rfl | rfl
  · simp only [portRead8, deviceRead, decodePort_cmdPort, picCmdRead, if_pos h]
    rfl
  · simp only [portRead8, deviceRead, decodePort_dataPort, picDataRead, if_pos h]
    rfl

/-- A byte written to the data port inside an initialisation sequence (R172): the controller takes it as the
next word, or refuses it. -/
theorem portWrite8_insideInit {c : Chip} {s : State} (h : ¬Operating c s) (b : Byte) :
    ∃ f, (f = s.fault ∨ f = s.fault ||| 0x20) ∧
      portWrite8 (dataPort c) b s =
        { s with fault := f, portTrace := s.portTrace ++ [wrote8 (dataPort c) b] }.setPic c
          (afterInitWord c b (s.pic c)) := by
  have h : (s.pic c).init ≠ .operating := h
  have hp : (s.trace (wrote8 (dataPort c) b)).pic c = s.pic c := by cases c <;> rfl
  have hcw : cascadeWord c = if c = .master then 0x04 else 0x02 := by cases c <;> rfl
  rw [portWrite8_dataPort, picDataWrite, hp, afterInitWord, ← hcw]
  cases hi : (s.pic c).init
  · exact absurd hi h
  · exact ⟨s.fault, .inl rfl, rfl⟩
  · by_cases hb : b = cascadeWord c
    · exact ⟨s.fault, .inl rfl, by rw [if_pos hb, if_pos hb]; rfl⟩
    · refine ⟨s.fault ||| 0x20, .inr rfl, ?_⟩
      rw [if_neg hb, if_neg hb]
      cases c <;> rfl
  · by_cases hb : b = icw4Mode8086
    · exact ⟨s.fault, .inl rfl, by rw [if_pos hb, if_pos (show b = 0x01 from hb)]; rfl⟩
    · refine ⟨s.fault ||| 0x20, .inr rfl, ?_⟩
      rw [if_neg hb, if_neg (show ¬b = 0x01 from hb)]
      cases c <;> rfl

/-- A select written to a controller (R170): `RSEL`, or, inside an initialisation sequence, the refusal. -/
theorem portWrite8_select (c : Chip) {b : Byte} {r : RegSel}
    (hb : (b = ocw3ReadIrr ∧ r = .irr) ∨ (b = ocw3ReadIsr ∧ r = .isr)) (s : State) :
    portWrite8 (cmdPort c) b s =
      if Operating c s then (s.trace (wrote8 (cmdPort c) b)).setPic c { s.pic c with rsel := r }
      else (s.trace (wrote8 (cmdPort c) b)).raise .picUnmodelled := by
  have hp : ∀ x, (s.trace x).pic c = s.pic c := by intro x; cases c <;> rfl
  rw [portWrite8_cmdPort, picCmdWrite, hp]
  by_cases h : (s.pic c).init = .operating
  · rw [if_pos (show Operating c s from h)]
    rcases hb with ⟨rfl, rfl⟩ | ⟨rfl, rfl⟩ <;> simp [h, icw1Init, ocw2Eoi, ocw3ReadIrr, ocw3ReadIsr]
  · rw [if_neg (show ¬Operating c s from h)]
    rcases hb with ⟨rfl, rfl⟩ | ⟨rfl, rfl⟩ <;> simp [h, icw1Init, ocw3ReadIrr, ocw3ReadIsr]

/-- A command-port read of an operating controller is the register its select names (R171). -/
theorem portRead8_operating {c : Chip} {s : State} (h : Operating c s) :
    portRead8 (cmdPort c) s = (selectedByte c (s.pic c).rsel s,
      s.trace (read8 (cmdPort c) (selectedByte c (s.pic c).rsel s))) := by
  have hr : ∀ v : Bool, replaceBit s.picM.irr 2 v = (s.picM.irr &&& 0xFB) ||| (if v then 0x04 else 0x00) := by
    intro v
    cases v <;> simp [replaceBit, clearBit, setBit, bitMask]
    generalize s.picM.irr = b
    revert b
    decide +kernel
  have hb : picCmdRead c s = (selectedByte c (s.pic c).rsel s, s) := by
    unfold picCmdRead
    rw [if_neg (by simp [show (s.pic c).init = .operating from h])]
    cases c
    · cases hs : s.picM.rsel <;> simp [selectedByte, State.pic, hs, cascadeLine, hr]
    · cases hs : s.picS.rsel <;> simp [selectedByte, State.pic, hs]
  simp only [portRead8, deviceRead, decodePort_cmdPort, hb]
  rfl

end Sys2Proof.Machine
end

