-- ==== Sys2Proof/Tests/Slice0.lean ====
section
/-! SUPPORT. The model's own tests: what an ill-formed line or word is refused for, decoding of words written
out from spec/30_encoding.md, single steps with the results of spec/95_test_vectors.md (hand-derived there
from the rules), and for every statement a witness that meets its hypotheses. -/

namespace Sys2Proof.Tests

open Sys2Proof Sys2Proof.Machine

/-! ## Helpers -/

/-- A field of the next state, where there is one. -/
def onNext {α : Type} (o : Host.Outcome State Fault Refusal) (f : State → α) : Option α :=
  match o with
  | .next t => some (f t)
  | .fault _ => none
  | .refused _ => none

/-- State `P` of spec/95: after RESET and REMAP 32, 40, the trace emptied. -/
def stateP : State :=
  { State.reset with picM := { State.reset.picM with off := 0x20 },
                     picS := { State.reset.picS with off := 0x28 } }

/-- `P` with `IMR`, `IRR`, `ISR` of both controllers as given. -/
def withPics (imrM imrS irrM irrS isrM isrS : Byte) : State :=
  { stateP with picM := { stateP.picM with imr := imrM, irr := irrM, isr := isrM },
                picS := { stateP.picS with imr := imrS, irr := irrS, isr := isrS } }

/-- `P` after `KEY b`. -/
def withKey (b : Byte) : State :=
  { stateP with kbdData := b, kbdWritten := true, picM := { stateP.picM with irr := 0x02 } }

/-- `P` with a controller at a position of its initialisation sequence. -/
def insideInit (c : Chip) (p : InitPos) : State := stateP.setPic c { stateP.pic c with init := p }

/-- `P`, halted. -/
def halted : State := { stateP with halted := true, diagOut := [⟨.index 14, 14, 2, some 0xDEADBEEF⟩] }

/-- `P` after `BAD_DELIVERY`. -/
def badDelivery : State := { stateP with fault := 0x40 }

/-- `P` with the table register loaded as INIT loads it. -/
def loaded : State := stateP.loadIdtr

/-- `s` with one gate written, the register loaded and `IF` = 1. -/
def oneGate (v handler : Word) (s : State) : State := ((setDescriptor v handler 0x8E s).loadIdtr).setIf true

/-- `s` with the gates 0 to n - 1 built, the register loaded and `IF` = 1: state `B` of spec/95 for n = 48. -/
def built (n : Nat) (s : State) : State := ((populate n s).loadIdtr).setIf true

theorem built_tableBuilt {n : Nat} (h1 : 48 ≤ n) (h2 : n ≤ 256) (s : State) : TableBuilt (built n s) := by
  have hc : (built n s).cfg = s.cfg := populate_cfg h2 s
  refine ⟨?_, fun v hv => ?_⟩
  · rw [hc]
    show ({ loaded := true, base := (populate n s).cfg.idtBase, limit := idtLimit } : Idtr) = _
    rw [populate_cfg h2 s]
    rfl
  · rw [hc]
    show (populate n s).gate v = _
    rw [populate_gate h2, if_pos (by omega)]

theorem default_configOk : configOk defaultConfig := by decide +kernel

theorem built_systemReady {n : Nat} (h1 : 48 ≤ n) (h2 : n ≤ 256) (m p : Byte) :
    SystemReady (built n (withPics 0 0 m p 0 0)) := by
  have f := populate_frame h2 (withPics 0 0 m p 0 0)
  have hb := built_tableBuilt h1 h2 (withPics 0 0 m p 0 0)
  have hc : (built n (withPics 0 0 m p 0 0)).cfg = defaultConfig := populate_cfg h2 _
  have e : ∀ {α : Type} (g : State → α), g (built n (withPics 0 0 m p 0 0)) =
      g (({ withPics 0 0 m p 0 0 with mem := (populate n (withPics 0 0 m p 0 0)).mem,
                                      vecSet := (populate n (withPics 0 0 m p 0 0)).vecSet } : State).loadIdtr.setIf
        true) := by
    intro α g
    rw [← f]
    rfl
  refine ⟨by rw [hc]; exact default_configOk, ?_, ?_, rfl, hb, ?_, ?_, ?_, ?_⟩
  · show (built n (withPics 0 0 m p 0 0)).fault = 0; rw [e State.fault]; rfl
  · rw [e State.halted]; rfl
  · rw [e State.picM]; rfl
  · rw [e State.picS]; rfl
  · rw [e State.picM]; rfl
  · rw [e State.picS]; rfl

theorem built_pics {n : Nat} (h2 : n ≤ 256) (s : State) :
    (built n s).picM = s.picM ∧ (built n s).picS = s.picS := by
  have f := populate_frame h2 s
  have hm : (populate n s).picM = s.picM := by rw [f]
  have hs : (populate n s).picS = s.picS := by rw [f]
  exact ⟨hm, hs⟩

/-- Eligibility reads the controllers alone (R183). -/
theorem lineEligible_congr {s t : State} (hm : s.picM = t.picM) (hs : s.picS = t.picS) (l : Nat) :
    lineEligible s l = lineEligible t l := by
  have h1 : s.slaveReq = t.slaveReq := by funext i; simp [State.slaveReq, hs]
  have h2 : s.masterReq = t.masterReq := by funext i; simp [State.masterReq, State.slaveInt, hm, h1]
  simp [lineEligible, h1, h2]

/-! ## WellFormed: every check refuses an ill-formed line (R104) -/

theorem test_line_fits : (⟨.setDescriptor, [33, 0x00101234, 0x8E]⟩ : AsmLine).wellFormed = true := by decide
theorem test_line_too_few : (⟨.remap, [32]⟩ : AsmLine).wellFormed = false := by decide
theorem test_line_too_many : (⟨.init, [0]⟩ : AsmLine).wellFormed = false := by decide
theorem test_line_port_too_wide : (⟨.readByte, [0x10000]⟩ : AsmLine).wellFormed = false := by decide
theorem test_line_byte_too_wide : (⟨.writeByte, [0x21, 256]⟩ : AsmLine).wellFormed = false := by decide
theorem test_line_word_too_wide : (⟨.dispatch, [0, 0x100000000]⟩ : AsmLine).wellFormed = false := by decide

/-! ## Illegal words, V-ILL-1 to V-ILL-11 -/

theorem test_illegal_opcodes :
    [0x00000000000000000000, 0xFF000000000000000000, 0x14000000000000000000, 0x26000000000000000000,
      0x32000000000000000000, 0x41000000000000000000, 0x51000000000000000000].all
      (fun w => (decodeWord w).toOption == none) = true := by decide

theorem test_illegal_reserved_bits :
    decodeWord 0x10000000000000000001 = .illegal (.reservedBits .readByte) ∧
    decodeWord 0x10000100210000000000 = .illegal (.reservedBits .readByte) ∧
    decodeWord 0x24000000000000000001 = .illegal (.reservedBits .readRequestRegister) ∧
    decodeWord 0x20000001200000002800 = .illegal (.reservedBits .remap) ∧
    decodeWord 0x31000000000000000001 = .illegal (.reservedBits .init) ∧
    decodeWord 0x50000000000000000100 = .illegal (.reservedBits .keyboardDecode) ∧
    decodeWord 0x4000000000000000210A = .illegal (.reservedBits .dispatch) ∧
    decodeWord 0x13000000800001000000 = .illegal (.reservedBits .writeWord) := by decide

theorem test_illegal_truncated :
    decodeBytes [0x31, 0, 0, 0, 0, 0, 0, 0, 0] = (.illegal (.truncated 9), [0x31, 0, 0, 0, 0, 0, 0, 0, 0]) := by
  decide

/-! ## Decoding: a word per constructor, its fields written out from R91 to R93 as OP, A, B, C -/

theorem test_decode_readByte :
    decodeWord (0x10#8 ++ 0x0000ABCD#32 ++ 0x00000000#32 ++ 0x00#8) = .ok (.readByte 0xABCD) := by decide
theorem test_decode_writeByte :
    decodeWord (0x11#8 ++ 0x000000A1#32 ++ 0x00000000#32 ++ 0xFE#8) = .ok (.writeByte 0x00A1 0xFE) := by decide
theorem test_decode_readWord :
    decodeWord (0x12#8 ++ 0x000001F0#32 ++ 0x00000000#32 ++ 0x00#8) = .ok (.readWord 0x01F0) := by decide
theorem test_decode_writeWord :
    decodeWord (0x13#8 ++ 0x000003D4#32 ++ 0x00000E0A#32 ++ 0x00#8) = .ok (.writeWord 0x03D4 0x0E0A) := by decide
theorem test_decode_remap :
    decodeWord (0x20#8 ++ 0x00000020#32 ++ 0x00000028#32 ++ 0x00#8) = .ok (.remap 32 40) := by decide
theorem test_decode_setMask :
    decodeWord (0x21#8 ++ 0x00000000#32 ++ 0x00000000#32 ++ 0x0A#8) = .ok (.setMask 10) := by decide
theorem test_decode_clearMask :
    decodeWord (0x22#8 ++ 0x00000000#32 ++ 0x00000000#32 ++ 0xFF#8) = .ok (.clearMask 255) := by decide
theorem test_decode_sendEoi :
    decodeWord (0x23#8 ++ 0x00000000#32 ++ 0x00000000#32 ++ 0x0C#8) = .ok (.sendEoi 12) := by decide
theorem test_decode_readRequestRegister :
    decodeWord (0x24#8 ++ 0x00000000#32 ++ 0x00000000#32 ++ 0x00#8) = .ok .readRequestRegister := by decide
theorem test_decode_readServiceRegister :
    decodeWord (0x25#8 ++ 0x00000000#32 ++ 0x00000000#32 ++ 0x00#8) = .ok .readServiceRegister := by decide
theorem test_decode_setDescriptor :
    decodeWord (0x30#8 ++ 0x00101234#32 ++ 0x00000021#32 ++ 0x8E#8) =
      .ok (.setDescriptor 33 0x00101234 0x8E) := by decide
theorem test_decode_init :
    decodeWord (0x31#8 ++ 0x00000000#32 ++ 0x00000000#32 ++ 0x00#8) = .ok .init := by decide
theorem test_decode_dispatch :
    decodeWord (0x40#8 ++ 0xDEADBEEF#32 ++ 0x0000000E#32 ++ 0x00#8) = .ok (.dispatch 0xDEADBEEF 14) := by decide
theorem test_decode_keyboardDecode :
    decodeWord (0x50#8 ++ 0x00000000#32 ++ 0x00000000#32 ++ 0x00#8) = .ok .keyboardDecode := by decide

/-- R91: byte 0 is the opcode, then `A` from its high byte down, `B`, and `C`. -/
theorem test_decode_bytes :
    decodeBytes [0x30, 0x00, 0x10, 0x12, 0x34, 0x00, 0x00, 0x00, 0x21, 0x8E, 0x77] =
      (.ok (.setDescriptor 33 0x00101234 0x8E), [0x77]) := by decide

/-- The text of R104, with the words of spec/95. -/
theorem test_assemble :
    assemble "SET_DESCRIPTOR 33, 0x00101234, 0x8E".toList = some 0x3000101234000000218E ∧
    assemble "REMAP 32, 40".toList = some 0x20000000200000002800 ∧
    assemble "KEYBOARD_DECODE".toList = some 0x50000000000000000000 ∧
    assemble "SET_MASK 256".toList = none := by decide

/-- A row's word placed as the next command is what the first step after reset runs. -/
theorem test_first_step :
    onNext (step (State.reset.withFetchWord 80 0x20000000210000002900)) (fun t => (t.picM.off, t.picS.off)) =
      some (0x21, 0x29) := by decide

/-! ## Single steps -/

/-- V-PORT-1. -/
theorem test_readByte_mask :
    onNext (exec (.readByte 0x21) (withPics 0xFB 0 0 0 0 0)) (fun t => (t.result, t.portTrace)) =
      some (0x00FB, [⟨.read, 0x0021, .w8 0xFB⟩]) := by decide
/-- V-PORT-13. -/
theorem test_readByte_keyboard :
    onNext (exec (.readByte 0x60) (withKey 0x1E)) (fun t => (t.result, t.kbdData, t.picM.irr)) =
      some (0x001E, 0x1E, 0x02) := by decide
/-- V-PORT-2. -/
theorem test_writeByte_mask :
    onNext (exec (.writeByte 0x21 0xFF) stateP) (fun t => (t.picM.imr, t.picS.imr)) = some (0xFF, 0) := by decide
/-- V-PORT-17. -/
theorem test_writeByte_unmodelled :
    onNext (exec (.writeByte 0x20 0x60) stateP) (fun t => (t.fault, t.picM == stateP.picM, t.portTrace)) =
      some (0x20, true, [⟨.write, 0x0020, .w8 0x60⟩]) := by decide
/-- V-PORT-7. -/
theorem test_readWord_covers_port_above :
    onNext (exec (.readWord 0x1F) stateP) (fun t => (t.fault, t.portTrace)) = some (0x10, []) := by decide
/-- V-PORT-10, the top of the port space. -/
theorem test_readWord_top :
    onNext (exec (.readWord 0xFFFF) stateP) (fun t => (t.fault, t.portTrace.length)) = some (0, 1) := by decide
/-- V-PORT-11. -/
theorem test_writeWord_trace :
    onNext (exec (.writeWord 0x3D4 0x0E0A) stateP) (fun t => t.portTrace) =
      some [⟨.write, 0x03D4, .w16 0x0E0A⟩] := by decide
/-- V-PORT-12. -/
theorem test_writeWord_refused :
    onNext (exec (.writeWord 0x5F 0) stateP) (fun t => (t.fault, t.portTrace)) = some (0x10, []) := by decide
/-- V-PIC-2, the first step. -/
theorem test_remap_from_inside_init :
    onNext (exec (.remap 32 40)
      ((withPics 0xAA 0x55 0x13 0x80 0x04 0x01).setPic .master
        { imr := 0xAA, irr := 0x13, isr := 0x04, off := 0x08, init := .cascade, rsel := .isr }))
      (fun t => (t.picM, t.fault)) =
      some ({ imr := 0, irr := 0, isr := 0, off := 32, init := .operating, rsel := .irr }, 0) := by decide
/-- V-PIC-1. -/
theorem test_remap_writes :
    onNext (exec (.remap 32 40) stateP) (fun t => t.portTrace.map (fun r => (r.port, r.value))) =
      some [(0x20, .w8 0x11), (0xA0, .w8 0x11), (0x21, .w8 0x20), (0xA1, .w8 0x28), (0x21, .w8 0x04),
            (0xA1, .w8 0x02), (0x21, .w8 0x01), (0xA1, .w8 0x01), (0x21, .w8 0), (0xA1, .w8 0)] := by decide
/-- V-PIC-3. -/
theorem test_setMask_second_controller :
    onNext (exec (.setMask 10) stateP) (fun t => (t.picM.imr, t.picS.imr, t.portTrace)) =
      some (0, 0x04, [⟨.read, 0x00A1, .w8 0⟩, ⟨.write, 0x00A1, .w8 0x04⟩]) := by decide
/-- V-PIC-7. -/
theorem test_setMask_bad_line :
    onNext (exec (.setMask 16) stateP) (fun t => (t.fault, t.portTrace)) = some (0x02, []) := by decide
/-- V-PIC-5, the second step. -/
theorem test_clearMask :
    onNext (exec (.clearMask 1) (withPics 0xFF 0 0 0 0 0)) (fun t => t.picM.imr) = some 0xFD := by decide
/-- R122, R172, D41, as V-PORT-18 for SET_MASK: the write is taken as the next word of the sequence. -/
theorem test_clearMask_inside_init :
    onNext (exec (.clearMask 3) (insideInit .master .offset))
      (fun t => (t.picM.init, t.picM.imr, t.fault, t.portTrace.length)) = some (.cascade, 0, 0x20, 2) := by decide
/-- V-PIC-9: the byte names no line. -/
theorem test_sendEoi_second_controller :
    onNext (exec (.sendEoi 12) (withPics 0 0 0 0 0x06 0x10)) (fun t => (t.picM.isr, t.picS.isr, t.portTrace)) =
      some (0x04, 0, [⟨.write, 0x00A0, .w8 0x20⟩, ⟨.write, 0x0020, .w8 0x20⟩]) := by decide
/-- V-PIC-10. -/
theorem test_sendEoi_first_controller :
    onNext (exec (.sendEoi 7) (withPics 0 0 0 0 0x06 0x10)) (fun t => (t.picM.isr, t.picS.isr)) =
      some (0x04, 0x10) := by decide
/-- V-PIC-15: bit 2 of the low byte is the second controller's request output. -/
theorem test_readRequestRegister :
    onNext (exec .readRequestRegister (withPics 0 0 0x01 0x02 0 0)) (fun t => t.result) = some 0x0205 := by decide
/-- V-PIC-16. -/
theorem test_readRequestRegister_masked :
    onNext (exec .readRequestRegister (withPics 0 0x02 0x01 0x02 0 0)) (fun t => t.result) = some 0x0201 := by
  decide
/-- V-PIC-17. -/
theorem test_readServiceRegister :
    onNext (exec .readServiceRegister (withPics 0 0 0 0 0x04 0x10)) (fun t => (t.result, t.picM.rsel, t.picS.rsel)) =
      some (0x1004, .isr, .isr) := by decide
/-- V-IDT-1. -/
theorem test_setDescriptor :
    onNext (exec (.setDescriptor 33 0x00101234 0x8E) State.reset)
      (fun t => (t.gate 33, t.mem.read 0x00104108, t.vecSetAt 33)) =
      some (0x00108E0000081234, 0x34, true) := by decide
/-- V-IDT-5. -/
theorem test_setDescriptor_bad_vector :
    onNext (exec (.setDescriptor 256 0x1000 0x8E) State.reset) (fun t => (t.fault, t.mem, t.vecSet)) =
      some (0x01, [], 0) := by decide
/-- V-IDT-7. -/
theorem test_init :
    onNext (exec .init State.reset) (fun t => (t.gate 14, t.gate 47, t.gate 48, t.idtr.limit, t.ifFlag)) =
      some (0x00108E00000800E0, 0x00108E00000802F0, 0, 0x07FF, true) := by decide +kernel
/-- V-IDT-8. -/
theorem test_init_again :
    onNext (exec .init loaded) (fun t => (t.fault, t.vecSet)) = some (0x08, 0) := by decide
/-- V-DSP-1. -/
theorem test_dispatch_keyboard :
    onNext (exec (.dispatch 0 33) { withKey 0x1E with picM := { stateP.picM with isr := 0xFF } })
      (fun t => (t.charOut, t.picM.isr, t.portTrace)) =
      some ([0x61], 0xFE, [⟨.read, 0x0060, .w8 0x1E⟩, ⟨.write, 0x0020, .w8 0x20⟩]) := by decide
/-- V-DSP-9. -/
theorem test_dispatch_page_fault :
    onNext (exec (.dispatch 2 14) { stateP with faultAddr := 0xDEADBEEF }) (fun t => (t.halted, t.diagOut)) =
      some (true, [⟨.index 14, 14, 2, some 0xDEADBEEF⟩]) := by decide
/-- V-KBD-1. -/
theorem test_keyboardDecode_make :
    onNext (exec .keyboardDecode (withKey 0x1E)) (fun t => (t.charOut, t.kbdData, t.picM.irr)) =
      some ([0x61], 0x1E, 0x02) := by decide
/-- V-KBD-3: the prefix has the high bit set and gives nothing. -/
theorem test_keyboardDecode_prefix :
    onNext (exec .keyboardDecode (withKey 0xE0)) (fun t => (t.charOut, t.portTrace)) =
      some ([], [⟨.read, 0x0060, .w8 0xE0⟩]) := by decide

/-! ## Steps of the other agents -/

/-- V-INT-5. -/
theorem test_irq_latches :
    onNext (step { stateP with schedule := [.irq 3] }) (fun t => (t.picM.irr, onNext (acceptInterrupt t) (fun u => u.picM.irr))) =
      some (0x08, some 0x08) := by decide
/-- V-INT-1, the first step. -/
theorem test_key_latches :
    onNext (step { stateP with schedule := [.key 0x1E] }) (fun t => (t.kbdData, t.picM.irr)) =
      some (0x1E, 0x02) := by decide
/-- V-INT-7. -/
theorem test_exc_without_table :
    onNext (step { State.reset with schedule := [.exc 13 0 0] }) (fun t => (t.fault, t.halted, t.ifFlag)) =
      some (0x40, false, false) := by decide
/-- V-INT-6: `EXC 14, 2, 0xDEADBEEF` through gate 14 as INIT builds it. -/
theorem test_exc_page_fault :
    onNext (takeException 14 2 0xDEADBEEF (oneGate 14 0x001000E0 stateP))
      (fun t => (t.faultAddr, t.diagOut, t.halted, t.ifFlag)) =
      some (0xDEADBEEF, [⟨.index 14, 14, 2, some 0xDEADBEEF⟩], true, false) := by decide
/-- V-INT-2, the first acceptance after line 0: line 9, vector 41, before lines 12 and 5. -/
theorem test_inta_priority :
    (acceptLine (withPics 0 0 0x20 0x12 0 0)).map (fun x => (x.1, x.2.picS.isr, x.2.picM.isr, x.2.picS.irr)) =
      some (41, 0x02, 0x04, 0x10) := by decide
/-- V-INT-1, the second step, through gate 33 as INIT builds it. -/
theorem test_inta_keyboard :
    onNext (acceptInterrupt (oneGate 33 0x00100210 (withKey 0x1E)))
      (fun t => (t.charOut, t.picM.irr, t.picM.isr, t.ifFlag)) = some ([0x61], 0, 0, true) := by decide
/-- V-INT-12: a line in service blocks the lines below it and not the lines above it. -/
theorem test_inta_blocked :
    (acceptLine (withPics 0 0 0x08 0 0x02 0)).isNone = true ∧
    (acceptLine (withPics 0 0 0x09 0 0x02 0)).map (fun x => (x.1, x.2.picM.isr)) = some (32, 0x03) := by decide
/-- V-RST-1. -/
theorem test_reset_clears :
    onNext (step { halted with schedule := [.reset] }) (fun t => (t.halted, t.fault, t.diagOut, t.idtr.loaded)) =
      some (false, 0, [], false) := by decide
/-- V-ILL-2. -/
theorem test_illegal_step :
    onNext (step (State.reset.withFetchWord 80 0xFF000000000000000000)) (fun t => (t.fault, t.portTrace)) =
      some (0x04, []) := by decide
/-- R26: `RESULT` once it is written, and a draw before. -/
theorem test_hostReadResult :
    (hostReadResult { stateP with result := 0x0205, resultWritten := true }).1 = 0x0205 ∧
    (hostReadResult stateP).1 = Config.freeHalf stateP.draws := by
  constructor <;> rfl

/-- V-INT-13, the first acceptance: vector 44 routed to trampoline 34 acknowledges line 2. -/
theorem test_inta_routed :
    onNext (acceptInterrupt (oneGate 44 0x00100220 (withPics 0 0 0 0x10 0 0)))
      (fun t => (t.picM.isr, t.picS.isr, t.portTrace)) =
      some (0, 0x10, [⟨.write, 0x0020, .w8 0x20⟩]) := by decide
/-- V-INT-11: a handler that is no trampoline. -/
theorem test_inta_bad_handler :
    onNext (acceptInterrupt (oneGate 35 0x12345678 (withPics 0 0 0x08 0 0 0)))
      (fun t => (t.fault, t.picM.isr, t.ifFlag)) = some (0x40, 0x08, false) := by decide

/-! ## Witnesses: a state and operands that meet the hypotheses of a statement, for every clause -/

/-- Every statement whose hypothesis on the state is `Accepts s` alone, and every operand. -/
theorem witness_accepts : Accepts State.reset ∧ Accepts stateP := by decide

theorem witness_EncodeOfDecode : decodeWord 0x21000000000000000001 = .ok (.setMask 1) := by decide

theorem witness_DecodedIffRowMatches :
    (0x31000000000000000000#80) &&& Mnemonic.init.maskBits = Mnemonic.init.matchBits := by decide

theorem witness_StepRunsDecoded :
    ({ State.reset with schedule := [.command 0x21000000000000000001] } : State).schedule =
      .command 0x21000000000000000001 :: [] ∧
    decodeWord 0x21000000000000000001 = .ok (.setMask 1) ∧
    ({ State.reset with schedule := [.inta, .key 0x1E] } : State).schedule = .inta :: [.key 0x1E] ∧
    ({ State.reset with schedule := [.exc 14 2 0x1000] } : State).schedule = .exc 14 2 0x1000 :: [] ∧
    State.reset.schedule = [] := by decide

theorem witness_FetchedWordRuns : decodeTableWord 80 0x21000000000000000001 = some (.setMask 1) := by decide

theorem witness_IllegalWordRaises :
    Accepts { State.reset with schedule := [.command 0x14000000000000000000] } ∧
    decodeWord 0x14000000000000000000 = .illegal (.unassignedOpcode 0x14) ∧
    decodeWord 0x31000000000000000001 = .illegal (.reservedBits .init) := by decide

theorem witness_HaltedCommandsDoNothing : halted.halted = true := by decide

theorem witness_CommandsStopAfterBadDelivery :
    badDelivery.halted = false ∧ badDelivery.hasFault .badDelivery = true := by decide

/-- Each clause: halted, after `BAD_DELIVERY`, `IF` = 0, nothing requesting. -/
theorem witness_DisabledAgentsTakeNoStep :
    halted.halted = true ∧ badDelivery.hasFault .badDelivery = true ∧ State.reset.ifFlag = false ∧
    (∀ l < 8, stateP.masterReq l = false) := by decide

theorem witness_ReadByteEveryPort : Accepts (insideInit .master .offset) ∧ Accepts stateP := by decide

/-- Each select of each controller, and the byte each clause says is read. -/
theorem witness_ReadByteController :
    (∀ c, Accepts (withPics 0 0 0x01 0x02 0 0) ∧ Operating c (withPics 0 0 0x01 0x02 0 0)) ∧
    ((withPics 0 0 0x01 0x02 0 0).pic .master).rsel = .irr ∧
    ((withPics 0 0 0x01 0x02 0 0).pic .slave).rsel = .irr ∧
    (withPics 0 0 0x01 0x02 0 0).slaveInt = true ∧
    (({ stateP with picM := { stateP.picM with rsel := .isr } } : State).pic .master).rsel = .isr := by
  refine ⟨fun c => ?_, ?_⟩
  · cases c <;> decide
  · decide

/-- A written byte; and each of the three ways to a draw, the undecoded ports at their edges. -/
theorem witness_ReadByteKeyboardAndDraws :
    (Accepts (withKey 0x1E) ∧ (withKey 0x1E).kbdWritten = true) ∧
    (Accepts stateP ∧ stateP.kbdWritten = false) ∧
    (0x0000 : Half) ∉ decodedPorts ∧ (0x0061 : Half) ∉ decodedPorts ∧ (0xFFFF : Half) ∉ decodedPorts := by decide

theorem witness_ReadByteInsideInit :
    Accepts (insideInit .slave .mode) ∧ ¬Operating .slave (insideInit .slave .mode) ∧
    (0x00A1 : Half) = dataPort .slave ∧ (0x00A0 : Half) = cmdPort .slave := by decide

theorem witness_WriteByteEveryPort :
    Accepts stateP ∧ (0x0060 : Half) ∉ ([0x20, 0x21, 0xA0, 0xA1] : List Half) ∧
    (0x0022 : Half) ∉ ([0x20, 0x21, 0xA0, 0xA1] : List Half) := by decide

/-- Every position of the sequence at each controller. -/
theorem witness_WriteByteDataPort :
    ∀ c p, Accepts (insideInit c p) ∧ ((insideInit c p).pic c).init = p := by
  intro c p
  cases c <;> cases p <;> decide

theorem witness_WriteByteCommandPort :
    ∀ c p, Accepts (insideInit c p) ∧ ((insideInit c p).pic c).init = p := by
  intro c p
  cases c <;> cases p <;> decide

/-- Where the two clauses meet: the ports beside a decoded one. -/
theorem witness_ReadWordEveryPort :
    Accepts stateP ∧ (0x001F : Half) ∈ wordRefusedPorts ∧ (0x0064 : Half) ∈ wordRefusedPorts ∧
    (0x001E : Half) ∉ wordRefusedPorts ∧ (0x0065 : Half) ∉ wordRefusedPorts ∧
    (0xFFFF : Half) ∉ wordRefusedPorts := by decide

theorem witness_WriteWordEveryPort :
    Accepts stateP ∧ (0x005F : Half) ∈ wordRefusedPorts ∧ (0x00A1 : Half) ∈ wordRefusedPorts ∧
    (0x0061 : Half) ∉ wordRefusedPorts ∧ (0x0062 : Half) ∉ wordRefusedPorts := by decide

theorem witness_RemapFromEveryState : Accepts (insideInit .master .cascade) := by decide

theorem witness_DiagnosticsZeroAfterRemap : Accepts (withPics 0xAA 0x55 0x13 0x80 0x04 0x01) := by decide

/-- Lines 0, 7, 8 and 15. -/
theorem witness_MaskUpdate :
    ∀ line ∈ ([0, 7, 8, 15] : List Byte), Accepts stateP ∧ line.toNat ≤ 15 ∧ Operating (lineChip line) stateP := by
  decide

theorem witness_BadLineRefused : Accepts stateP ∧ 15 < (16 : Byte).toNat ∧ 15 < (255 : Byte).toNat := by decide

/-- Every position of the sequence, at a line of each controller. -/
theorem witness_MaskUpdateInsideInit :
    ∀ x ∈ ([(.master, 7), (.slave, 8)] : List (Chip × Byte)), ∀ p ∈ [InitPos.offset, .cascade, .mode],
      Accepts (insideInit x.1 p) ∧ x.2.toNat ≤ 15 ∧ x.1 = lineChip x.2 ∧ ¬Operating x.1 (insideInit x.1 p) ∧
      ((insideInit x.1 p).pic x.1).init = p := by decide

/-- A line whose bit is 0, and one whose bit is 1: both sides of the last clause. -/
theorem witness_SetThenClearMask :
    (Accepts stateP ∧ (10 : Byte).toNat ≤ 15 ∧ Chip.slave = lineChip 10 ∧ Operating .slave stateP ∧
      (stateP.pic .slave).imr.getLsbD (lineIndex 10) = false) ∧
    (Accepts (withPics 0xFF 0 0 0 0 0) ∧ Chip.master = lineChip 1 ∧
      ((withPics 0xFF 0 0 0 0 0).pic .master).imr.getLsbD (lineIndex 1) = true) := by decide

theorem witness_SendEoiEveryLine :
    Accepts stateP ∧ (7 : Byte).toNat < 8 ∧ 8 ≤ (8 : Byte).toNat ∧ (15 : Byte).toNat ≤ 15 ∧
    Accepts (insideInit .master .mode) ∧ ¬Operating .master (insideInit .master .mode) := by decide

theorem witness_DiagnosticReads :
    Accepts (withPics 0 0 0x01 0x02 0 0) ∧ Operating .master (withPics 0 0 0x01 0x02 0 0) ∧
    Operating .slave (withPics 0 0 0x01 0x02 0 0) ∧
    (0x05 : Byte) = ((withPics 0 0 0x01 0x02 0 0).picM.irr &&& 0xFB) |||
      (if (withPics 0 0 0x01 0x02 0 0).slaveInt then 0x04 else 0x00) := by decide

/-- Each controller inside its sequence while the other operates, and both inside. -/
theorem witness_DiagnosticReadsInsideInit :
    ∀ s ∈ [insideInit .slave .cascade, insideInit .master .offset,
        (insideInit .slave .mode).setPic .master { stateP.picM with init := .mode }],
      Accepts s ∧ ¬(Operating .master s ∧ Operating .slave s) ∧
      ∃ (n : Nat) (drawM drawS mr mi vr vi : Byte),
        n = (if Operating .master s then s.draws else s.draws + 1) ∧
        drawM = Config.freeByte s.draws ∧ drawS = Config.freeByte n ∧
        mr = (if Operating .master s then selectedByte .master .irr s else drawM) ∧
        mi = (if Operating .master s then s.picM.isr else drawM) ∧
        vr = (if Operating .slave s then s.picS.irr else drawS) ∧
        vi = (if Operating .slave s then s.picS.isr else drawS) := by
  have h : ∀ s ∈ [insideInit .slave .cascade, insideInit .master .offset,
      (insideInit .slave .mode).setPic .master { stateP.picM with init := .mode }],
      Accepts s ∧ ¬(Operating .master s ∧ Operating .slave s) := by decide
  exact fun s hs => ⟨(h s hs).1, (h s hs).2, _, _, _, _, _, _, _, rfl, rfl, rfl, rfl, rfl, rfl, rfl⟩

/-- R183's four conditions, each failing alone at inputs 0 and 7 of both controllers: the input requests, is not
pending, is masked, has a controller inside a sequence, is itself in service. -/
theorem witness_InServiceBlocks_requests :
    ∀ l ∈ [0, 7],
      (∀ irr imr isr : Byte, irr = 1#8 <<< l → imr = ~~~irr → isr = 0 →
        (withPics imr imr irr irr isr isr).slaveReq l = true ∧
        (withPics imr imr irr irr isr isr).masterReq l = true ∧
        (withPics imr imr 0 0 isr isr).slaveReq l = false ∧
        (withPics imr imr 0 0 isr isr).masterReq l = false ∧
        (withPics irr irr irr irr isr isr).slaveReq l = false ∧
        (withPics irr irr irr irr isr isr).masterReq l = false ∧
        (withPics imr imr irr irr irr irr).slaveReq l = false ∧
        (withPics imr imr irr irr irr irr).masterReq l = false) ∧
      (∀ p ∈ [InitPos.offset, .cascade, .mode],
        ((withPics 0 0 0 0xFF 0 0).setPic .slave
          { (withPics 0 0 0 0xFF 0 0).picS with init := p }).slaveReq l = false ∧
        ((withPics 0 0 0xFF 0 0 0).setPic .master
          { (withPics 0 0 0xFF 0 0 0).picM with init := p }).masterReq l = false) := by
  intro l hl
  refine ⟨?_, ?_⟩
  · rintro _ _ _ rfl rfl rfl
    revert l
    decide
  · revert l
    decide

/-- Input 2 of the first controller: behind it a request of input 0 or 7 of the second; no request, masked, or an
input of equal or higher priority in service. A lower-priority input in service does not block. -/
theorem witness_InServiceBlocks_cascade :
    (withPics 0 0 0 0x01 0 0).masterReq 2 = true ∧ (withPics 0 0 0 0x80 0 0).masterReq 2 = true ∧
    (withPics 0 0 0 0x80 0x08 0).masterReq 2 = true ∧ (withPics 0 0 0xFF 0 0 0).masterReq 2 = false ∧
    (withPics 0x04 0 0 0x80 0 0).masterReq 2 = false ∧ (withPics 0 0 0 0x80 0x04 0).masterReq 2 = false ∧
    (withPics 0 0 0 0x80 0x01 0).masterReq 2 = false ∧
    lineEligible (withPics 0 0 0 0x81 0 0) (8 + 0) = true ∧ lineEligible (withPics 0 0 0 0x81 0 0) (8 + 7) = true := by
  decide

/-- Each clause of what an input in service blocks: the second controller, the first, and the first's input 2. -/
theorem witness_InServiceBlocks :
    (withPics 0 0 0 0 0 0x10).picS.isr.getLsbD 4 = true ∧ (withPics 0 0 0 0 0x02 0).picM.isr.getLsbD 1 = true ∧
    (withPics 0 0 0 0 0x04 0).picM.isr.getLsbD 2 = true ∧ (4 ≤ 7 ∧ 7 < 8) := by decide

/-- Vectors 0 and 255, the last below the boundary. -/
theorem witness_SetDescriptorWritesOneGate :
    Accepts State.reset ∧ (0 : Word).toNat ≤ 255 ∧ (255 : Word).toNat ≤ 255 := by decide

theorem witness_GateReadBack : Accepts State.reset ∧ (47 : Word).toNat ≤ 255 := by decide

theorem witness_GateByteImage : Accepts State.reset ∧ (33 : Word).toNat ≤ 255 := by decide

theorem witness_BadVectorRefused :
    Accepts State.reset ∧ 255 < (256 : Word).toNat ∧ 255 < (0xFFFFFFFF : Word).toNat := by decide

theorem witness_InitBuildsTable : Accepts State.reset ∧ State.reset.idtr.loaded = false := by decide

theorem witness_SecondInitRefused : Accepts loaded ∧ loaded.idtr.loaded = true := by decide

/-- Where the three classes meet. -/
theorem witness_ClassifyEveryVector :
    (33 : Word).toNat = 33 ∧
    (32 ≤ (32 : Word).toNat ∧ (32 : Word).toNat ≤ 47 ∧ (32 : Word).toNat ≠ 33) ∧
    (32 ≤ (34 : Word).toNat ∧ (34 : Word).toNat ≤ 47 ∧ (34 : Word).toNat ≠ 33) ∧
    (32 ≤ (47 : Word).toNat ∧ (47 : Word).toNat ≤ 47 ∧ (47 : Word).toNat ≠ 33) ∧
    ((0 : Word).toNat < 32 ∨ 47 < (0 : Word).toNat) ∧
    ((31 : Word).toNat < 32 ∨ 47 < (31 : Word).toNat) ∧
    ((48 : Word).toNat < 32 ∨ 47 < (48 : Word).toNat) ∧
    ((0xFFFFFFFF : Word).toNat < 32 ∨ 47 < (0xFFFFFFFF : Word).toNat) := by decide

theorem witness_DispatchKeyboard :
    Accepts (withKey 0x1E) ∧ Operating .master (withKey 0x1E) ∧
    Accepts (insideInit .master .offset) ∧ ¬Operating .master (insideInit .master .offset) := by decide

theorem witness_DispatchOtherLine :
    Accepts stateP ∧
    (32 ≤ (32 : Word).toNat ∧ (32 : Word).toNat ≤ 47 ∧ (32 : Word).toNat ≠ 33) ∧
    (32 ≤ (39 : Word).toNat ∧ (39 : Word).toNat ≤ 47 ∧ (39 : Word).toNat ≠ 33) ∧
    (32 ≤ (40 : Word).toNat ∧ (40 : Word).toNat ≤ 47 ∧ (40 : Word).toNat ≠ 33) ∧
    (32 ≤ (47 : Word).toNat ∧ (47 : Word).toNat ≤ 47 ∧ (47 : Word).toNat ≠ 33) := by decide

theorem witness_DispatchFatal :
    Accepts stateP ∧
    ((0 : Word).toNat < 32 ∨ 47 < (0 : Word).toNat) ∧
    ((14 : Word).toNat < 32 ∨ 47 < (14 : Word).toNat) ∧
    ((31 : Word).toNat < 32 ∨ 47 < (31 : Word).toNat) ∧
    ((48 : Word).toNat < 32 ∨ 47 < (48 : Word).toNat) ∧
    ((200 : Word).toNat < 32 ∨ 47 < (200 : Word).toNat) := by decide

theorem witness_KeyboardDecodeEffect : Accepts (withKey 0x1E) ∧ Accepts stateP := by decide

/-- Each of the documented codes. -/
theorem witness_DocumentedKeys :
    ∀ b : Byte, Accepts (withKey b) ∧ configOk (withKey b).cfg ∧ (withKey b).kbdWritten = true ∧
      (withKey b).kbdData = b := by
  intro b
  exact ⟨⟨rfl, by simp [State.hasFault, withKey, stateP, State.reset, State.resetWith]⟩, default_configOk, rfl, rfl⟩

/-- Lines 2, 7 and 8, and a key. -/
theorem witness_RequestsLatched :
    ∀ e ∈ ([.irq 2, .irq 7, .irq 8, .key 0x1E] : List Event),
      ({ stateP with schedule := [e] } : State).schedule = e :: [] := by decide

theorem witness_ResetFromEveryState : ({ halted with schedule := [.reset] } : State).schedule = .reset :: [] := by
  decide

theorem witness_ExceptionsAreFatal :
    Accepts (built 48 (withPics 0 0 0 0 0 0)) ∧ configOk (built 48 (withPics 0 0 0 0 0 0)).cfg ∧
    TableBuilt (built 48 (withPics 0 0 0 0 0 0)) := by
  obtain ⟨hc, hs, hh, -, ht, -⟩ := built_systemReady (n := 48) (by omega) (by omega) 0 0
  refine ⟨⟨hh, ?_⟩, hc, ht⟩
  rw [State.hasFault, show (built 48 (withPics 0 0 0 0 0 0)).fault = 0 from hs]
  decide

/-- Each case: no table, a zero gate, a handler that is no trampoline. -/
theorem witness_BadDeliveryCases :
    (Accepts State.reset ∧ State.reset.idtr.loaded = false) ∧
    (Accepts loaded ∧ loaded.idtr = { loaded := true, base := loaded.cfg.idtBase, limit := 0x07FF } ∧
      gateAttrOf (loaded.gate (13 : BitVec 5).toNat) ≠ 0x8E) ∧
    (Accepts (oneGate 13 0x12345678 stateP) ∧
      ∀ w < 48, trampAt (oneGate 13 0x12345678 stateP).cfg w ≠
        gateHandler ((oneGate 13 0x12345678 stateP).gate (13 : BitVec 5).toNat)) := by decide +kernel

/-- A gate rewritten to the last trampoline of the fatal path, and to the first of a device. -/
theorem witness_TrapDeliveryCases_exception :
    (Accepts (oneGate 13 0x001001F0 stateP) ∧ RoutesTo (oneGate 13 0x001001F0 stateP) (13 : BitVec 5).toNat 31) ∧
    (Accepts (oneGate 13 0x00100200 stateP) ∧ RoutesTo (oneGate 13 0x00100200 stateP) (13 : BitVec 5).toNat 32) ∧
    configOk (oneGate 13 0x00100200 stateP).cfg := by
  refine ⟨by decide, by decide, ?_⟩
  exact default_configOk

/-- Each case: not routed (V-INT-11), a trampoline of the fatal path (as V-INT-9), one of a device (V-INT-13). -/
theorem witness_TrapDeliveryCases_interrupt :
    (Accepts (oneGate 35 0x12345678 (withPics 0 0 0x08 0 0 0)) ∧ (oneGate 35 0x12345678 (withPics 0 0 0x08 0 0 0)).ifFlag = true ∧
      (acceptLine (oneGate 35 0x12345678 (withPics 0 0 0x08 0 0 0))).map (fun y => y.1) = some 35 ∧
      Unroutable (oneGate 35 0x12345678 (withPics 0 0 0x08 0 0 0)) 35) ∧
    (Accepts (oneGate 35 0x00100090 (withPics 0 0 0x08 0 0 0)) ∧ (oneGate 35 0x00100090 (withPics 0 0 0x08 0 0 0)).ifFlag = true ∧
      (acceptLine (oneGate 35 0x00100090 (withPics 0 0 0x08 0 0 0))).map (fun y => y.1) = some 35 ∧
      RoutesTo (oneGate 35 0x00100090 (withPics 0 0 0x08 0 0 0)) 35 9) ∧
    (Accepts (oneGate 44 0x00100220 (withPics 0 0 0 0x10 0 0)) ∧ (oneGate 44 0x00100220 (withPics 0 0 0 0x10 0 0)).ifFlag = true ∧
      (acceptLine (oneGate 44 0x00100220 (withPics 0 0 0 0x10 0 0))).map (fun y => y.1) = some 44 ∧
      RoutesTo (oneGate 44 0x00100220 (withPics 0 0 0 0x10 0 0)) 44 34) ∧
    configOk (oneGate 44 0x00100220 (withPics 0 0 0 0x10 0 0)).cfg := by
  refine ⟨by decide, by decide, by decide, ?_⟩
  exact default_configOk

/-- Each case of the choice: nothing, a line of each controller. -/
theorem witness_AcceptedLineIsFirst :
    linesByPriority.find? (lineEligible stateP) = none ∧
    linesByPriority.find? (lineEligible (withPics 0 0 0x20 0 0 0)) = some 5 ∧
    linesByPriority.find? (lineEligible (withPics 0 0 0x20 0x12 0 0)) = some 9 := by decide

/-- Lines 1, 9 and 15. -/
theorem witness_WorkingSystemServicesLine :
    ∀ x ∈ ([(1, 0x02, 0), (9, 0x20, 0x12), (15, 0, 0x80)] : List (Nat × Byte × Byte)),
      SystemReady (built 48 (withPics 0 0 x.2.1 x.2.2 0 0)) ∧
      linesByPriority.find? (lineEligible (built 48 (withPics 0 0 x.2.1 x.2.2 0 0))) = some x.1 := by
  intro x hx
  refine ⟨built_systemReady (by omega) (by omega) _ _, ?_⟩
  have hp := built_pics (n := 48) (by omega) (withPics 0 0 x.2.1 x.2.2 0 0)
  rw [show lineEligible (built 48 (withPics 0 0 x.2.1 x.2.2 0 0)) = lineEligible (withPics 0 0 x.2.1 x.2.2 0 0) from
    funext fun l => lineEligible_congr hp.1 hp.2 l]
  revert x
  decide

/-- A state that meets the invariants; that all of them hold at reset is a statement of its own. -/
theorem witness_InvariantsKept : Inv stateP where
  memWf := Memory.wf_nil
  memInTable := by simp [stateP, State.reset, State.resetWith]
  unwritten v _ _ := by
    simp [stateP, State.reset, State.resetWith, State.gate, Memory.readGate, Memory.read, unlistedByte]
  written v _ h := by simp [stateP, State.reset, State.resetWith, State.vecSetAt] at h
  loadedIdtr h := by simp [stateP, State.reset, State.resetWith] at h
  loadedGates h := by simp [stateP, State.reset, State.resetWith] at h
  ifLoaded h := by simp [stateP, State.reset, State.resetWith] at h
  diagOne := rfl
  irrCascade := by decide
  faultReserved := by decide

theorem witness_StepsStopOnlyAfterBadDelivery :
    onNext (step (State.reset.withFetchWord 80 0x31000000000000000001)) (fun t => t.fault) = some 0x04 ∧
    (match step (badDelivery.withFetchWord 80 0x31000000000000000000) with
      | .fault .afterBadDelivery => true
      | _ => false) = true ∧
    (badDelivery.withFetchWord 80 0x31000000000000000000).schedule.head? =
      some (.command 0x31000000000000000000) := by decide

theorem witness_FaultBitsSticky :
    (onNext (step { badDelivery with schedule := [.key 0x1E] }) (fun t => t.fault)).isSome = true ∧
    ({ badDelivery with schedule := [.key 0x1E] } : State).schedule.head? ≠ some .reset := by decide

theorem witness_HaltedIsTerminal :
    ({ halted with schedule := [.irq 4, .inta] } : State).halted = true ∧
    ({ halted with schedule := [.irq 4, .inta] } : State).schedule.head? ≠ some .reset := by decide

theorem witness_HistoriesGrow :
    (onNext (step { withKey 0x1E with schedule := [.command 0x50000000000000000000] })
      (fun t => t.charOut)) = some [0x61] ∧
    ({ withKey 0x1E with schedule := [.command 0x50000000000000000000] } : State).schedule.head? ≠
      some .reset := by decide

theorem witness_CommandFootprint :
    (onNext (exec (.setMask 3) stateP) (fun t => t.picM.imr)) = some 0x08 ∧
    (onNext (exec .init loaded) (fun t => t.fault)) = some 0x08 := by decide

theorem witness_TableWrittenByBuilderOnly :
    (onNext (step { stateP with schedule := [.command 0x21000000000000000003] }) (fun t => t.picM.imr)) =
      some 0x08 ∧
    ({ stateP with schedule := [.command 0x21000000000000000003] } : State).schedule.head? ≠ some .reset ∧
    decodeWord 0x21000000000000000003 = .ok (.setMask 3) ∧
    (Instr.setMask 3).mnemonic ∉ ([.setDescriptor, .init] : List Mnemonic) := by decide

end Sys2Proof.Tests
end

section
/-! PROOF. SET_MASK and CLEAR_MASK of a line whose controller is operating (R13, R121, R122): the exact next
state of one update, and what two updates in a row leave of the mask. -/

namespace Sys2Proof.Machine

/-! ## One bit of a byte, updated twice (R13) -/

theorem setBit_setBit (b : Byte) (i : Nat) : setBit (setBit b i) i = setBit b i := by
  simp only [setBit, BitVec.or_assoc, BitVec.or_self]

theorem clearBit_clearBit (b : Byte) (i : Nat) : clearBit (clearBit b i) i = clearBit b i := by
  simp only [clearBit, BitVec.and_assoc, BitVec.and_self]

theorem setBit_getLsbD_same {i : Nat} (hi : i < 8) (b : Byte) : (setBit b i).getLsbD i = true := by
  simp [setBit_getLsbD hi]

theorem clearBit_setBit_getLsbD {j : Nat} (hj : j < 8) (b : Byte) (i : Nat) :
    (clearBit (setBit b i) i).getLsbD j = (decide (j ≠ i) && b.getLsbD j) := by
  rw [clearBit_getLsbD hj, setBit_getLsbD hj]
  by_cases h : j = i <;> simp [h]

/-- Setting a bit and then clearing it gives the byte back exactly if the bit was 0. -/
theorem clearBit_setBit_eq_iff {i : Nat} (hi : i < 8) (b : Byte) :
    clearBit (setBit b i) i = b ↔ b.getLsbD i = false := by
  constructor
  · intro h
    rw [← h, clearBit_setBit_getLsbD hi]
    simp
  · intro h
    apply BitVec.eq_of_getLsbD_eq
    intro j hj
    rw [clearBit_setBit_getLsbD hj]
    by_cases hji : j = i <;> simp [hji, h]

/-! ## One mask update (R121, R122) -/

theorem lineIndex_lt (line : Byte) : lineIndex line < 8 := Nat.mod_lt _ (by decide)

@[simp] theorem State.trace_pic (r : PortRecord) (c : Chip) (s : State) : (s.trace r).pic c = s.pic c := by
  cases c <;> rfl

/-- An accepting state runs the command (R95). -/
theorem exec_accepts {s : State} (h : Accepts s) (i : Instr) : exec i s = .next (opOf i s) := by
  rw [exec_eq, hostCommand_accepts h]

/-- A data-port read of an operating controller answers its mask (R173). -/
theorem portRead8_dataPort_operating {c : Chip} {s : State} (h : Operating c s) :
    portRead8 (dataPort c) s = ((s.pic c).imr, s.trace (read8 (dataPort c) (s.pic c).imr)) := by
  have hr : picDataRead c s = ((s.pic c).imr, s) := if_neg (not_not_intro h)
  simp only [portRead8, deviceRead, decodePort_dataPort, hr]
  rfl

/-- A byte written to the data port of an operating controller is its mask (R172). -/
theorem portWrite8_dataPort_operating {c : Chip} {s : State} (h : Operating c s) (b : Byte) :
    portWrite8 (dataPort c) b s =
      (s.trace (wrote8 (dataPort c) b)).setPic c { s.pic c with imr := b } := by
  have h : (s.pic c).init = .operating := h
  rw [portWrite8_dataPort, picDataWrite, State.trace_pic, h]

section
variable {line : Byte} {s : State} (hline : line.toNat ≤ 15) (hop : Operating (lineChip line) s)
include hline hop

/-- The next state of a mask update: one read record, one write record, and the line's bit of the owning
controller's mask. -/
theorem updateMask_operating (u : Byte → Nat → Byte) :
    updateMask u line s =
      ((s.trace (read8 (dataPort (lineChip line)) (s.pic (lineChip line)).imr)).trace
        (wrote8 (dataPort (lineChip line)) (u (s.pic (lineChip line)).imr (lineIndex line)))).setPic
        (lineChip line)
        { s.pic (lineChip line) with imr := u (s.pic (lineChip line)).imr (lineIndex line) } := by
  have hop' : ∀ r, Operating (lineChip line) (s.trace r) := fun r => by rwa [Operating, State.trace_pic]
  simp only [updateMask, lineTarget_good hline, portRead8_dataPort_operating hop,
    portWrite8_dataPort_operating (hop' _), State.trace_pic]

theorem updateMask_pic (u : Byte → Nat → Byte) :
    (updateMask u line s).pic (lineChip line) =
      { s.pic (lineChip line) with imr := u (s.pic (lineChip line)).imr (lineIndex line) } := by
  rw [updateMask_operating hline hop, State.setPic_pic]

theorem operating_updateMask (u : Byte → Nat → Byte) : Operating (lineChip line) (updateMask u line s) := by
  rw [Operating, updateMask_pic hline hop]
  exact hop

theorem accepts_updateMask (h : Accepts s) (u : Byte → Nat → Byte) : Accepts (updateMask u line s) := by
  rw [updateMask_operating hline hop]
  simpa [Accepts, State.hasFault] using h

/-- An update of the byte that is idempotent is idempotent on the controller's registers. -/
theorem updateMask_twice_pic {u : Byte → Nat → Byte} (hu : ∀ b i, u (u b i) i = u b i) :
    (updateMask u line (updateMask u line s)).pic (lineChip line) =
      (updateMask u line s).pic (lineChip line) := by
  rw [updateMask_pic hline (operating_updateMask hline hop u), updateMask_pic hline hop, hu]

/-- SET_MASK and then CLEAR_MASK of one line, on the owning controller's mask. -/
theorem clear_after_set_imr :
    ((updateMask clearBit line (updateMask setBit line s)).pic (lineChip line)).imr =
      clearBit (setBit (s.pic (lineChip line)).imr (lineIndex line)) (lineIndex line) := by
  rw [updateMask_pic hline (operating_updateMask hline hop setBit), updateMask_pic hline hop]

end

/-- Settles O28: each update is idempotent on the byte, and the bit laws carry over to the mask. -/
theorem setThenClearMask : Obligations.SetThenClearMask := by
  rintro s line _ hacc hline rfl hop
  have hi := lineIndex_lt line
  have opSet := operating_updateMask hline hop setBit
  have accSet := accepts_updateMask hline hop hacc setBit
  have accClear := accepts_updateMask hline hop hacc clearBit
  have accSetClear := accepts_updateMask hline opSet accSet clearBit
  refine ⟨_, _, _, _, exec_accepts hacc _, exec_accepts accSet _,
    updateMask_twice_pic hline hop setBit_setBit, ?bitSet,
    exec_accepts accSet _, exec_accepts accSetClear _,
    updateMask_twice_pic hline opSet clearBit_clearBit, ?bits, ?restored,
    _, _, exec_accepts hacc _, exec_accepts accClear _,
    updateMask_twice_pic hline hop clearBit_clearBit⟩
  case bitSet =>
    simp only [opOf, updateMask_pic hline hop]
    exact setBit_getLsbD_same hi _
  case bits =>
    intro j hj
    simp only [opOf, clear_after_set_imr hline hop]
    exact clearBit_setBit_getLsbD hj _ _
  case restored =>
    simp only [opOf, clear_after_set_imr hline hop]
    exact clearBit_setBit_eq_iff hi _

end Sys2Proof.Machine
end

section
/-! PROOF. Everything one step of the machine can do (R5, R95, R180 to R188, R220), said once: `step_cases` below.
Every statement about all steps follows from it. -/

namespace Sys2Proof.Machine

/-! ## HOST's step (R95) -/

theorem hostCommand_afterBadDelivery {op : State → State} {s : State} (hh : s.halted = false)
    (hb : s.hasFault .badDelivery = true) : hostCommand op s = .fault .afterBadDelivery := by
  simp [hostCommand, hh, hb]

/-- The three answers of a command's step. -/
theorem hostCommand_cases (op : State → State) (s : State) :
    (s.halted = true ∧ hostCommand op s = .next s) ∨
    (s.halted = false ∧ s.hasFault .badDelivery = true ∧ hostCommand op s = .fault .afterBadDelivery) ∨
    (Accepts s ∧ hostCommand op s = .next (op s)) := by
  cases hh : s.halted
  · cases hb : s.hasFault .badDelivery
    · exact .inr (.inr ⟨⟨hh, hb⟩, hostCommand_accepts ⟨hh, hb⟩⟩)
    · exact .inr (.inl ⟨rfl, rfl, hostCommand_afterBadDelivery hh hb⟩)
  · exact .inl ⟨rfl, hostCommand_halted hh⟩

/-- What HOST runs for a word: the operation it decodes to, or the raise of `ILLEGAL_CMD`. -/
def wordOp (w : CommandWord) : State → State :=
  match decodeWord w with
  | .ok i => opOf i
  | .illegal _ => State.raise .illegalCmd

theorem wordOp_of_ok {w : CommandWord} {i : Instr} (h : decodeWord w = .ok i) : wordOp w = opOf i := by
  rw [wordOp, h]

theorem wordOp_of_illegal {w : CommandWord} {why : DecodeError} (h : decodeWord w = .illegal why) :
    wordOp w = State.raise .illegalCmd := by
  rw [wordOp, h]

theorem hostStep_eq (w : CommandWord) (s : State) : hostStep w s = hostCommand (wordOp w) s := by
  unfold hostStep
  cases hw : decodeWord w with
  | ok i => rw [wordOp_of_ok hw]; exact exec_eq i s
  | illegal why => rw [wordOp_of_illegal hw]

/-! ## What a step can do -/

/-- The state a trap is taken in, before the entry of R187: the acceptance of a line with its drawn error code
(R184), or the fault address of a page fault (R182). -/
inductive TrapEntry (s : State) : State → Prop where
  | intro (pm ps : Pic) (fa : Word) (n : Nat)
      (irrM : ∀ j, pm.irr.getLsbD j = true → s.picM.irr.getLsbD j = true)
      (irrS : ∀ j, ps.irr.getLsbD j = true → s.picS.irr.getLsbD j = true) :
      TrapEntry s { s with picM := pm, picS := ps, faultAddr := fa, draws := n }

/-- What a trap that answers a next state leaves (R185, R187, R188). -/
inductive TrapEffect (s : State) : State → Prop where
  | badDelivery : TrapEffect s ((s.setIf false).raise .badDelivery)
  | quiet {t : State} (h : Quiet s t) : TrapEffect s t
  | fatal (e v : Word) : TrapEffect s (fatal e v (s.setIf false))

/-- What an agent's step that answers a next state leaves: nothing changed, where the agent is not enabled or
the line is no device line (log 12, log 19); the reset state; `ILLEGAL_CMD`; the operation; a latched request,
with the byte of a key; or a trap. -/
inductive AgentEffect (s : State) : Event → State → Prop where
  | skipped (e : Event) (h : e ≠ .reset) : AgentEffect s e s
  | reset : AgentEffect s .reset (resetStep s)
  | illegal (w : CommandWord) (hacc : Accepts s) : AgentEffect s (.command w) (s.raise .illegalCmd)
  | operation {w : CommandWord} {i : Instr} (hw : decodeWord w = .ok i) (hacc : Accepts s) :
      AgentEffect s (.command w) (opOf i s)
  | requested (e : Event) (c : Chip) (i : Nat) (hi : c = .master → i ≠ 2) (d : Byte) (k : Bool) :
      AgentEffect s e (latchRequest c i { s with kbdData := d, kbdWritten := k })
  | trap {e : Event} {u t : State} (hu : TrapEntry s u) (hr : u.running = true) (ht : TrapEffect u t) :
      AgentEffect s e t

theorem raiseLine_cases (l : BitVec 4) (s : State) :
    raiseLine l s = s ∨ ∃ c i, (c = Chip.master → i ≠ 2) ∧ raiseLine l s = latchRequest c i s := by
  unfold raiseLine
  split
  · exact .inl rfl
  · split
    · exact .inr ⟨.master, l.toNat, fun _ => ‹_›, rfl⟩
    · exact .inr ⟨.slave, l.toNat - 8, nofun, rfl⟩

/-- Every trap taken in a running state answers one of `TrapEffect`, or stops outside the table. -/
theorem takeTrap_answers (v : Byte) (e : Word) {u : State} (hr : u.running = true) :
    (∃ t, takeTrap v e u = .next t ∧ TrapEffect u t) ∨
    (u.idtr.loaded = true ∧ deliveryInTable u v = false ∧ takeTrap v e u = .fault .outsideTable) := by
  rcases takeTrap_effect v e u hr with h | h | ⟨t, h, hq⟩ | ⟨w, h⟩
  · exact .inr h
  · exact .inl ⟨_, h, .badDelivery⟩
  · exact .inl ⟨t, h, .quiet hq⟩
  · exact .inl ⟨_, h, .fatal e w⟩

/-- An exception is not enabled, or it is a trap (R182). -/
theorem takeException_cases (v : BitVec 5) (e fa : Word) (s : State) :
    takeException v e fa s = .next s ∨
    ∃ u v', TrapEntry s u ∧ u.running = true ∧ takeException v e fa s = takeTrap v' e u := by
  unfold takeException
  split
  · refine .inr ⟨_, _, ?_, ?_, rfl⟩
    · split
      · exact .intro s.picM s.picS fa s.draws (fun _ h => h) (fun _ h => h)
      · exact .intro s.picM s.picS s.faultAddr s.draws (fun _ h => h) (fun _ h => h)
    · split <;> assumption
  · exact .inl rfl

/-- Accepting a line and drawing its error code is a trap's entry (R184). -/
theorem TrapEntry.of_acceptLine {s t : State} {v : Byte} (h : acceptLine s = some (v, t)) :
    TrapEntry s t.draw32.2 := by
  obtain ⟨ht, hM, hS⟩ := acceptLine_frame h
  rw [ht]
  exact .intro t.picM t.picS s.faultAddr (s.draws + 1) hM hS

theorem State.halted_of_running {s : State} (h : s.running = true) : s.halted = false := by
  rw [State.running, Bool.and_eq_true, Bool.not_eq_true'] at h
  exact h.1

/-- A trap's entry is running exactly if the state it is taken in is. -/
theorem TrapEntry.running_eq {s u : State} (h : TrapEntry s u) : u.running = s.running := by
  cases h
  rfl

/-- INTA is not enabled, or it is a trap (R184). -/
theorem acceptInterrupt_cases (s : State) :
    acceptInterrupt s = .next s ∨
    ∃ u v e, TrapEntry s u ∧ u.running = true ∧ acceptInterrupt s = takeTrap v e u := by
  unfold acceptInterrupt
  split
  · rename_i hr
    split
    · rename_i v t hl
      have hu := TrapEntry.of_acceptLine hl
      exact .inr ⟨_, _, _, hu, by rw [hu.running_eq]; exact (Bool.and_eq_true_iff.mp hr).1, rfl⟩
    · exact .inl rfl
  · exact .inl rfl

/-- What an agent's step answers: a next state of `AgentEffect`, the stop of a command after `BAD_DELIVERY`
(log 11), or the stop of a delivery outside the table (log 14). -/
inductive AgentAnswer (e : Event) (s : State) : Host.Outcome State Fault Refusal → Prop where
  | next {t : State} (h : AgentEffect s e t) : AgentAnswer e s (.next t)
  | afterBadDelivery {w : CommandWord} (he : e = .command w) (hh : s.halted = false)
      (hb : s.hasFault .badDelivery = true) : AgentAnswer e s (.fault .afterBadDelivery)
  | outsideTable {u : State} {v : Byte} (hu : TrapEntry s u) (hr : u.running = true)
      (hl : u.idtr.loaded = true) (hv : deliveryInTable u v = false) : AgentAnswer e s (.fault .outsideTable)

/-- A trap as an agent's step. -/
theorem AgentAnswer.of_trap (e : Event) {s u : State} (hu : TrapEntry s u) (hr : u.running = true) (v : Byte)
    (c : Word) : AgentAnswer e s (takeTrap v c u) := by
  rcases takeTrap_answers v c hr with ⟨t, h, ht⟩ | ⟨hl, hv, h⟩ <;> rw [h]
  · exact .next (.trap hu hr ht)
  · exact .outsideTable hu hr hl hv

theorem hostStep_answers (w : CommandWord) (s : State) : AgentAnswer (.command w) s (hostStep w s) := by
  rw [hostStep_eq]
  rcases hostCommand_cases (wordOp w) s with ⟨-, h⟩ | ⟨hh, hb, h⟩ | ⟨hacc, h⟩ <;> rw [h]
  · exact .next (.skipped _ nofun)
  · exact .afterBadDelivery rfl hh hb
  · cases hw : decodeWord w with
    | ok i => rw [wordOp_of_ok hw]; exact .next (.operation hw hacc)
    | illegal why => rw [wordOp_of_illegal hw]; exact .next (.illegal w hacc)

/-- Everything an agent's step can do, and what it stops on. -/
theorem agentStep_answers (e : Event) (s : State) : AgentAnswer e s (agentStep e s) := by
  cases e with
  | command w => exact hostStep_answers w s
  | irq l =>
    rw [agentStep]
    rcases raiseLine_cases l s with h | ⟨c, i, hi, h⟩ <;> rw [h]
    · exact .next (.skipped _ nofun)
    · exact .next (.requested _ c i hi s.kbdData s.kbdWritten)
  | key b => exact .next (.requested _ .master 1 (by decide) b true)
  | exc v e fa =>
    rw [agentStep]
    rcases takeException_cases v e fa s with h | ⟨u, v', hu, hr, h⟩ <;> rw [h]
    · exact .next (.skipped _ nofun)
    · exact .of_trap _ hu hr _ _
  | inta =>
    rw [agentStep]
    rcases acceptInterrupt_cases s with h | ⟨u, v, e, hu, hr, h⟩ <;> rw [h]
    · exact .next (.skipped _ nofun)
    · exact .of_trap _ hu hr _ _
  | reset => exact .next .reset

theorem step_nil {s : State} (h : s.schedule = []) : step s = .next s := by
  rw [step, scheduledStep, h]

theorem step_cons {s : State} {e : Event} {rest : List Event} (h : s.schedule = e :: rest) :
    step s = agentStep e { s with schedule := rest } := by
  rw [step, scheduledStep, h]

/-- A step: an empty schedule, or the first entry taken off and its agent's answer. -/
theorem step_answers (s : State) :
    (s.schedule = [] ∧ step s = .next s) ∨
    ∃ e rest, s.schedule = e :: rest ∧ AgentAnswer e { s with schedule := rest } (step s) := by
  cases hs : s.schedule with
  | nil => exact .inl ⟨rfl, step_nil hs⟩
  | cons e rest =>
    rw [step_cons hs]
    exact .inr ⟨e, rest, rfl, agentStep_answers e _⟩

/-- A step that answers a next state: nothing, or the effect of the first entry's agent. -/
theorem step_cases {s t : State} (h : step s = .next t) :
    (s.schedule = [] ∧ t = s) ∨
    ∃ e rest, s.schedule = e :: rest ∧ AgentEffect { s with schedule := rest } e t := by
  rcases step_answers s with ⟨hs, ha⟩ | ⟨e, rest, hs, ha⟩ <;> rw [h] at ha
  · cases ha
    exact .inl ⟨hs, rfl⟩
  · cases ha with
    | next k => exact .inr ⟨e, rest, hs, k⟩

/-! ## Quiet changes, port accesses and INIT's gates as record updates -/

/-- A quiet change as an update of the fields it may reach. -/
theorem Quiet.eq_update {s t : State} (h : Quiet s t) :
    ∃ pm ps f tr n cs,
      t = { s with picM := pm, picS := ps, fault := f, portTrace := tr, draws := n, charOut := cs } :=
  ⟨_, _, _, _, _, _, h.only⟩

/-- Port accesses as an update of the fields they may reach. -/
theorem PortSteps.eq_update {s t : State} (h : PortSteps s t) :
    ∃ pm ps f tr n, t = { s with picM := pm, picS := ps, fault := f, portTrace := tr, draws := n } :=
  ⟨_, _, _, _, _, h.only⟩

/-- The gates INIT builds, as an update of the fields they reach. -/
theorem populate48_eq_update (s : State) : ∃ m v, populate 48 s = { s with mem := m, vecSet := v } :=
  ⟨_, _, populate_frame (by decide) s⟩

end Sys2Proof.Machine
end

section
/-! PROOF. The invariants of 10_state.md R46 (with R27, R38, R97): they hold in every state a reset leaves, and
each of the effects of a step keeps them (O52, O53); what a step can stop on (O54). -/

namespace Sys2Proof.Machine

/-- The table memory, what is written of it and the register that points at it, unchanged. -/
structure TableKept (s t : State) : Prop where
  mem : t.mem = s.mem
  vecSet : t.vecSet = s.vecSet
  idtr : t.idtr = s.idtr
  cfg : t.cfg = s.cfg

theorem TableKept.refl (s : State) : TableKept s s := ⟨rfl, rfl, rfl, rfl⟩

theorem Quiet.tableKept {s t : State} (h : Quiet s t) : TableKept s t := by
  obtain ⟨pm, ps, f, tr, n, cs, rfl⟩ := h.eq_update
  exact ⟨rfl, rfl, rfl, rfl⟩

theorem TrapEffect.tableKept {s t : State} (h : TrapEffect s t) : TableKept s t := by
  cases h with
  | badDelivery => exact ⟨rfl, rfl, rfl, rfl⟩
  | quiet hq => exact hq.tableKept
  | fatal e v => exact ⟨rfl, rfl, rfl, rfl⟩

/-- No code is bit 7 of `FAULT` (R27). -/
theorem State.raise_reserved (c : FaultCode) (s : State) :
    (s.raise c).fault.getLsbD 7 = s.fault.getLsbD 7 := by
  have hc := c.bit_lt
  rw [State.raise_getLsbD c s (by decide), decide_eq_false (by omega), Bool.false_or]

/-! ## Changes outside the table -/

/-- Where the table is kept, the invariants ask little of the other fields. -/
theorem Inv.of_tableKept {s t : State} (h : Inv s) (k : TableKept s t)
    (hif : t.ifFlag = true → s.ifFlag = true) (hdiag : t.diagOut.length = if t.halted then 1 else 0)
    (hirr : t.picM.irr.getLsbD 2 = true → s.picM.irr.getLsbD 2 = true)
    (hfault : t.fault.getLsbD 7 = s.fault.getLsbD 7) : Inv t where
  memWf := by rw [k.mem]; exact h.memWf
  memInTable := by rw [k.mem, k.cfg]; exact h.memInTable
  unwritten v hv := by
    rw [State.vecSetAt_congr k.vecSet, State.gate_congr k.mem k.cfg]
    exact h.unwritten v hv
  written v hv := by
    rw [State.vecSetAt_congr k.vecSet, State.gate_congr k.mem k.cfg]
    exact h.written v hv
  loadedIdtr := by rw [k.idtr, k.cfg]; exact h.loadedIdtr
  loadedGates hl v hv := by
    rw [State.vecSetAt_congr k.vecSet]
    exact h.loadedGates (k.idtr ▸ hl) v hv
  ifLoaded hf := by rw [k.idtr]; exact h.ifLoaded (hif hf)
  diagOne := hdiag
  irrCascade := Bool.eq_false_of_not_eq_true fun hc =>
    Bool.false_ne_true (h.irrCascade.symm.trans (hirr hc))
  faultReserved := hfault.trans h.faultReserved

section
variable {s : State} (h : Inv s)
include h

theorem Inv.withSchedule (l : List Event) : Inv { s with schedule := l } :=
  h.of_tableKept ⟨rfl, rfl, rfl, rfl⟩ id h.diagOne id rfl

theorem Inv.quiet {t : State} (k : Quiet s t) : Inv t := by
  obtain ⟨pm, ps, f, tr, n, cs, rfl⟩ := k.eq_update
  exact h.of_tableKept k.tableKept id h.diagOne (k.irrM 2) (k.faultHigh 7 (by decide))

theorem Inv.setResult (v : Half) : Inv (s.setResult v) :=
  h.of_tableKept ⟨rfl, rfl, rfl, rfl⟩ id h.diagOne id rfl

theorem Inv.trapEntry {u : State} (k : TrapEntry s u) : Inv u := by
  cases k with
  | intro pm ps fa n irrM irrS => exact h.of_tableKept ⟨rfl, rfl, rfl, rfl⟩ id h.diagOne (irrM 2) rfl

theorem Inv.clearIf : Inv (s.setIf false) :=
  h.of_tableKept ⟨rfl, rfl, rfl, rfl⟩ nofun h.diagOne id rfl

theorem Inv.raise (c : FaultCode) : Inv (s.raise c) :=
  h.of_tableKept ⟨rfl, rfl, rfl, rfl⟩ id h.diagOne id (State.raise_reserved c s)

/-- The fatal path leaves the first diagnostic and the halt together (R152). -/
theorem Inv.fatal (hh : s.halted = false) (e v : Word) : Inv (fatal e v s) := by
  refine h.of_tableKept ⟨rfl, rfl, rfl, rfl⟩ id ?_ id rfl
  have h0 : s.diagOut.length = 0 := by simpa [hh] using h.diagOne
  simp [Machine.fatal, h0]

/-- A request other than the first controller's input 2. -/
theorem Inv.latchRequest {c : Chip} {i : Nat} (hi : c = .master → i ≠ 2) (d : Byte) (k : Bool) :
    Inv (latchRequest c i { s with kbdData := d, kbdWritten := k }) := by
  cases c with
  | master =>
    refine h.of_tableKept ⟨rfl, rfl, rfl, rfl⟩ id h.diagOne (fun hj => ?_) rfl
    have hb : (setBit s.picM.irr i).getLsbD 2 = true := hj
    rw [setBit_getLsbD (by decide), Bool.or_eq_true, decide_eq_true_iff] at hb
    exact hb.resolve_left (hi rfl).symm
  | slave => exact h.of_tableKept ⟨rfl, rfl, rfl, rfl⟩ id h.diagOne id rfl

theorem Inv.trapEffect {t : State} (hr : s.running = true) (k : TrapEffect s t) : Inv t := by
  cases k with
  | badDelivery => exact h.clearIf.raise _
  | quiet hq => exact h.quiet hq
  | fatal e v => exact h.clearIf.fatal (State.halted_of_running hr) e v

/-! ## The table builder (R140, R141) -/

/-- One gate written: it is in the table, and it holds the zero byte and the selector. -/
theorem Inv.writeGate {v : Nat} (hv : v < 256) (a : Word) (x : Byte) : Inv (s.writeGate v (packGate a x)) where
  memWf := Memory.wf_writeGate _ _ h.memWf
  memInTable y hy := by
    rcases Memory.mem_writeGate hy with hy | hy
    · simp only [State.writeGate_cfg, gateAddr, gateBytes] at hy ⊢
      omega
    · exact h.memInTable y hy
  unwritten w hw hs := by
    rw [State.vecSetAt_writeGate _ _ _ _ hw, Bool.or_eq_false_iff, decide_eq_false_iff_not] at hs
    rw [State.gate_writeGate, if_neg hs.1]
    exact h.unwritten w hw hs.2
  written w hw hs := by
    rw [State.vecSetAt_writeGate _ _ _ _ hw, Bool.or_eq_true, decide_eq_true_iff] at hs
    rw [State.gate_writeGate]
    split
    · exact ⟨gateZeroOf_packGate a x, gateSelectorOf_packGate a x⟩
    · exact h.written w hw (hs.resolve_left ‹_›)
  loadedIdtr := h.loadedIdtr
  loadedGates hl w hw := by
    rw [State.vecSetAt_writeGate _ _ _ _ (by omega), h.loadedGates hl w hw, Bool.or_true]
  ifLoaded := h.ifLoaded
  diagOne := h.diagOne
  irrCascade := h.irrCascade
  faultReserved := h.faultReserved

theorem Inv.populate {n : Nat} (hn : n ≤ 256) : Inv (populate n s) := by
  induction n with
  | zero => exact h
  | succ n ih =>
    rw [populate_succ (by omega)]
    exact (ih (by omega)).writeGate (by omega) _ _

/-- Once `VEC_SET` holds the gates 0 to 47, the register may be loaded and delivery enabled. -/
theorem Inv.loadIdtr (hg : ∀ v < 48, s.vecSetAt v = true) : Inv (s.loadIdtr.setIf true) where
  memWf := h.memWf
  memInTable := h.memInTable
  unwritten := h.unwritten
  written := h.written
  loadedIdtr _ := ⟨rfl, rfl⟩
  loadedGates _ := hg
  ifLoaded _ := rfl
  diagOne := h.diagOne
  irrCascade := h.irrCascade
  faultReserved := h.faultReserved

theorem Inv.buildTable : Inv (((Machine.populate 48 s).loadIdtr).setIf true) :=
  (h.populate (by decide)).loadIdtr fun v hv => by
    rw [populate_vecSetAt (by decide) s (by omega), decide_eq_true hv, Bool.true_or]

/-! ## Every operation and every agent -/

theorem Inv.opOf (hh : s.halted = false) (i : Instr) : Inv (opOf i s) := by
  rcases opOf_effect i s with hq | ⟨-, t, v, hp, ho⟩ | ⟨v, a, x, -, hv, ho⟩ | ⟨-, -, ho⟩ | ⟨e, v, -, ho⟩
  · exact h.quiet hq
  · rw [ho]; exact (h.quiet hp.quiet).setResult v
  · rw [ho]; exact h.writeGate (by omega) a x
  · rw [ho]; exact h.buildTable
  · rw [ho]; exact h.fatal hh e v

end

/-- Every state a reset leaves, whatever the unspecified values are (R44). -/
theorem inv_resetWith (c : Config) (u : ResetValues) : Inv (State.resetWith c u) where
  memWf := Memory.wf_nil
  memInTable := nofun
  unwritten v _ _ := by
    simp [State.resetWith, State.gate, Memory.readGate, Memory.read, unlistedByte]
  written v _ h := by simp [State.resetWith, State.vecSetAt] at h
  loadedIdtr := nofun
  loadedGates := nofun
  ifLoaded := nofun
  diagOne := rfl
  irrCascade := by
    rw [show (State.resetWith c u).picM.irr = u.irrM &&& 0xFB from rfl, BitVec.getLsbD_and,
      show (0xFB : Byte).getLsbD 2 = false by decide, Bool.and_false]
  faultReserved := show (0 : Byte).getLsbD 7 = false by decide

theorem inv_resetStep (s : State) : Inv (resetStep s) :=
  (inv_resetWith s.cfg (Config.freeReset s.draws)).of_tableKept ⟨rfl, rfl, rfl, rfl⟩ id rfl id rfl

theorem Inv.agentEffect {s t : State} {e : Event} (h : Inv s) (k : AgentEffect s e t) : Inv t := by
  cases k with
  | skipped => exact h
  | reset => exact inv_resetStep s
  | illegal w => exact h.raise _
  | operation hw hacc => exact h.opOf hacc.1 _
  | requested e c i hi d k => exact h.latchRequest hi d k
  | trap hu hr ht => exact (h.trapEntry hu).trapEffect hr ht

/-- Settles O52: the reset values of log 4 are one choice of the unspecified ones. -/
theorem invariantsAtReset : Obligations.InvariantsAtReset := inv_resetWith _ _

/-- Settles O53: taking the entry off keeps the invariants, and so does each effect of an agent's step. -/
theorem invariantsKept : Obligations.InvariantsKept := by
  intro s t h hst
  rcases step_cases hst with ⟨-, rfl⟩ | ⟨e, rest, -, k⟩
  · exact h
  · exact (h.withSchedule rest).agentEffect k

/-- Under the invariants every delivery through a loaded register reads a gate of the table (R65). -/
theorem Inv.deliveryInTable {s : State} (h : Inv s) (hl : s.idtr.loaded = true) (v : Byte) :
    deliveryInTable s v = true := by
  obtain ⟨hb, hm⟩ := h.loadedIdtr hl
  exact (deliveryAddr_loaded (show s.idtr = ⟨true, s.cfg.idtBase, 0x07FF⟩ by rw [← hl, ← hb, ← hm]) v).2

/-- Settles O54: no answer of an agent's step is a refusal, and the invariants exclude the delivery outside the
table. -/
theorem stepsStopOnlyAfterBadDelivery : Obligations.StepsStopOnlyAfterBadDelivery := by
  constructor
  · intro s r hst
    rcases step_answers s with ⟨-, ha⟩ | ⟨e, rest, -, ha⟩ <;> rw [hst] at ha <;> cases ha
  · intro s hinv r hst
    rcases step_answers s with ⟨-, ha⟩ | ⟨e, rest, hs, ha⟩ <;> rw [hst] at ha
    · cases ha
    · cases ha with
      | @afterBadDelivery w he hh hb => exact ⟨rfl, hh, hb, w, by rw [hs, he]; rfl⟩
      | outsideTable hu _ hl hv =>
        have hin := ((hinv.withSchedule rest).trapEntry hu).deliveryInTable hl
        exact nomatch hv.symm.trans (hin _)

end Sys2Proof.Machine
end

section
/-! PROOF. What every step but RESET keeps (O55, O57, O59), what a halted block does (O11, O56), what a command
leaves alone (O58), and commands after `BAD_DELIVERY` (O12). -/

namespace Sys2Proof.Machine

/-! ## Histories and `FAULT` (10_state.md R27, R37, R38, R39, R42) -/

/-- Histories are extended, by at most one character and one diagnostic; a `FAULT` bit stays set and bit 7 as it
is; the configuration is kept. -/
structure Grows (s t : State) : Prop where
  cfg : t.cfg = s.cfg
  faultMono : ∀ j < 8, s.fault.getLsbD j = true → t.fault.getLsbD j = true
  faultReserved : t.fault.getLsbD 7 = s.fault.getLsbD 7
  trace : s.portTrace <+: t.portTrace
  char : t.charOut = s.charOut ∨ ∃ c, c ≠ 0 ∧ t.charOut = s.charOut ++ [c]
  diag : t.diagOut = s.diagOut ∨ ∃ r, t.diagOut = s.diagOut ++ [r]

/-- A change that reaches neither a history, nor `FAULT`, nor the configuration. -/
theorem Grows.of_eq {s t : State} (hc : t.cfg = s.cfg) (hf : t.fault = s.fault)
    (hp : t.portTrace = s.portTrace) (ho : t.charOut = s.charOut) (hd : t.diagOut = s.diagOut) :
    Grows s t where
  cfg := hc
  faultMono j _ h := by rw [hf]; exact h
  faultReserved := by rw [hf]
  trace := by rw [hp]
  char := .inl ho
  diag := .inl hd

theorem Quiet.grows {s t : State} (h : Quiet s t) : Grows s t where
  cfg := h.tableKept.cfg
  faultMono := h.faultMono
  faultReserved := h.faultHigh 7 (by decide)
  trace := h.trace
  char := h.char
  diag := .inl (by rw [h.only])

theorem Grows.raise (c : FaultCode) (s : State) : Grows s (s.raise c) where
  cfg := rfl
  faultMono j hj h := by rw [State.raise_getLsbD c s hj, h, Bool.or_true]
  faultReserved := State.raise_reserved c s
  trace := by rfl
  char := .inl rfl
  diag := .inl rfl

/-- One diagnostic and no character (R152). -/
theorem Grows.fatal (e v : Word) (s : State) : Grows s (fatal e v s) where
  cfg := rfl
  faultMono _ _ h := h
  faultReserved := rfl
  trace := by rfl
  char := .inl rfl
  diag := .inr ⟨_, rfl⟩

theorem Grows.opOf (i : Instr) (s : State) : Grows s (opOf i s) := by
  rcases opOf_effect i s with hq | ⟨-, t, v, hp, ho⟩ | ⟨v, a, x, -, -, ho⟩ | ⟨-, -, ho⟩ | ⟨e, v, -, ho⟩
  · exact hq.grows
  · rw [ho]
    exact { hp.quiet.grows with }
  · rw [ho]
    exact .of_eq rfl rfl rfl rfl rfl
  · obtain ⟨m, w, hp⟩ := populate48_eq_update s
    rw [ho, hp]
    exact .of_eq rfl rfl rfl rfl rfl
  · rw [ho]
    exact .fatal e v s

theorem TrapEffect.grows {s t : State} (h : TrapEffect s t) : Grows s t := by
  cases h with
  | badDelivery => exact { Grows.raise .badDelivery (s.setIf false) with }
  | quiet hq => exact hq.grows
  | fatal e v => exact { Grows.fatal e v (s.setIf false) with }

theorem Grows.of_trap {s u t : State} (hu : TrapEntry s u) (h : Grows u t) : Grows s t := by
  cases hu
  exact { h with }

theorem AgentEffect.grows {s t : State} {e : Event} (h : AgentEffect s e t) (he : e ≠ .reset) : Grows s t := by
  cases h with
  | skipped => exact .of_eq rfl rfl rfl rfl rfl
  | reset => exact absurd rfl he
  | illegal w => exact .raise _ s
  | operation hw hacc => exact .opOf _ s
  | requested e c i hi d k => cases c <;> exact .of_eq rfl rfl rfl rfl rfl
  | trap hu hr ht => exact .of_trap hu ht.grows

theorem step_grows {s t : State} (h : step s = .next t) (hr : s.schedule.head? ≠ some .reset) : Grows s t := by
  rcases step_cases h with ⟨-, rfl⟩ | ⟨e, rest, hs, k⟩
  · exact .of_eq rfl rfl rfl rfl rfl
  · exact { k.grows (by simpa [hs] using hr) with }

/-- Settles O55: `FAULT` is one of the fields `Grows` speaks of. -/
theorem faultBitsSticky : Obligations.FaultBitsSticky := by
  intro s t h hr
  exact ⟨(step_grows h hr).faultMono, (step_grows h hr).faultReserved⟩

/-- Settles O57: RESET keeps the configuration, and every other step what `Grows` says. -/
theorem historiesGrow : Obligations.HistoriesGrow := by
  intro s t h
  refine ⟨?_, fun hr => ⟨(step_grows h hr).trace, (step_grows h hr).char, (step_grows h hr).diag⟩⟩
  by_cases hr : s.schedule.head? = some .reset
  · obtain ⟨rest, hs⟩ := List.head?_eq_some_iff.mp hr
    rw [step_cons hs] at h
    cases h
    rfl
  · exact (step_grows h hr).cfg

/-! ## The table (R21, R23, R140, R141) -/

theorem opOf_tableKept {i : Instr} (hi : i.mnemonic ∉ [.setDescriptor, .init]) (s : State) :
    TableKept s (opOf i s) := by
  rcases opOf_effect i s with hq | ⟨-, t, v, hp, ho⟩ | ⟨v, a, x, rfl, -⟩ | ⟨rfl, -⟩ | ⟨e, v, -, ho⟩
  · exact hq.tableKept
  · rw [ho]
    exact { hp.quiet.tableKept with }
  · simp [Instr.mnemonic] at hi
  · simp [Instr.mnemonic] at hi
  · rw [ho]
    exact ⟨rfl, rfl, rfl, rfl⟩

theorem AgentEffect.tableKept {s t : State} {e : Event} (h : AgentEffect s e t) (he : e ≠ .reset)
    (hb : ∀ w i, e = .command w → decodeWord w = .ok i → i.mnemonic ∉ [.setDescriptor, .init]) :
    TableKept s t := by
  cases h with
  | skipped => exact .refl s
  | reset => exact absurd rfl he
  | illegal w => exact ⟨rfl, rfl, rfl, rfl⟩
  | @operation w i hw hacc => exact opOf_tableKept (hb w i rfl hw) s
  | requested e c i hi d k => cases c <;> exact ⟨rfl, rfl, rfl, rfl⟩
  | trap hu hr ht =>
    cases hu
    exact { ht.tableKept with }

/-- Settles O59: an operation that is no builder keeps the table, and so does every other agent but RESET. -/
theorem tableWrittenByBuilderOnly : Obligations.TableWrittenByBuilderOnly := by
  intro s t h hr hb
  rcases step_cases h with ⟨-, rfl⟩ | ⟨e, rest, hs, k⟩
  · exact ⟨rfl, rfl, rfl⟩
  · have kept := k.tableKept (by simpa [hs] using hr) fun w i he => hb w i (by rw [hs, he]; rfl)
    exact ⟨kept.mem, kept.vecSet, kept.idtr⟩

/-! ## What a command leaves alone -/

theorem PortSteps.charOut {s t : State} (h : PortSteps s t) : t.charOut = s.charOut := by rw [h.only]

theorem updateMask_charOut (u : Byte → Nat → Byte) (line : Byte) (s : State) :
    (updateMask u line s).charOut = s.charOut := by
  by_cases h : line.toNat ≤ 15
  · exact (PortSteps.updateMask h u s).charOut
  · rw [updateMask, lineTarget_bad (Nat.lt_of_not_le h)]
    rfl

theorem sendEoi_charOut (line : Byte) (s : State) : (sendEoi line s).charOut = s.charOut := by
  by_cases h : line.toNat ≤ 15
  · exact (PortSteps.sendEoi h s).charOut
  · rw [sendEoi, lineTarget_bad (Nat.lt_of_not_le h)]
    rfl

theorem readPicRegisters_charOut (b : Byte) (s : State) : (readPicRegisters b s).charOut = s.charOut := by
  obtain ⟨t, v, hp, h⟩ := readPicRegisters_frame b s
  rw [h]
  exact hp.charOut

theorem readWord_charOut (p : Half) (s : State) : (readWord p s).charOut = s.charOut := by
  unfold readWord portRead16
  by_cases h : coversDecoded p = true
  · rw [if_pos h]
    rfl
  · rw [if_neg h]
    rfl

theorem portWrite16_charOut (p v : Half) (s : State) : (portWrite16 p v s).charOut = s.charOut := by
  unfold portWrite16
  split <;> rfl

/-- SET_DESCRIPTOR reaches the table memory, `VEC_SET` and `FAULT` alone (R140). -/
theorem setDescriptor_frame (v a : Word) (x : Byte) (s : State) :
    ∃ m vs f, setDescriptor v a x s = { s with mem := m, vecSet := vs, fault := f } := by
  by_cases h : v.toNat ≤ 255
  · exact ⟨_, _, s.fault, setDescriptor_good h a x s⟩
  · exact ⟨s.mem, s.vecSet, _, setDescriptor_bad (Nat.lt_of_not_le h) a x s⟩

/-- INIT reaches the table memory, `VEC_SET`, the table register, `IF` and `FAULT` alone (R141). -/
theorem initTable_frame (s : State) :
    ∃ m vs d b f, initTable s = { s with mem := m, vecSet := vs, idtr := d, ifFlag := b, fault := f } := by
  unfold initTable
  split
  · exact ⟨s.mem, s.vecSet, s.idtr, s.ifFlag, _, rfl⟩
  · obtain ⟨m, vs, h⟩ := populate48_eq_update s
    rw [populatedCount, h]
    exact ⟨m, vs, _, true, s.fault, rfl⟩

/-- The table's commands leave the controllers, the trace and the count of draws. -/
theorem opOf_builder {i : Instr} (hi : i.mnemonic ∈ [.setDescriptor, .init]) (s : State) :
    (opOf i s).portTrace = s.portTrace ∧ (opOf i s).picM = s.picM ∧ (opOf i s).picS = s.picS ∧
      (opOf i s).draws = s.draws := by
  have hcases : (∃ v a x, i = .setDescriptor v a x) ∨ i = .init := by
    cases i <;> simp [Instr.mnemonic] at hi ⊢
  rcases hcases with ⟨v, a, x, rfl⟩ | rfl
  · obtain ⟨m, vs, f, h⟩ := setDescriptor_frame v a x s
    rw [opOf, h]
    exact ⟨rfl, rfl, rfl, rfl⟩
  · obtain ⟨m, vs, d, b, f, h⟩ := initTable_frame s
    rw [opOf, h]
    exact ⟨rfl, rfl, rfl, rfl⟩

/-- Only the decoder, run by itself or by DISPATCH, writes a character (R37). -/
theorem opOf_charOut {i : Instr} (hi : i.mnemonic ∉ [.dispatch, .keyboardDecode]) (s : State) :
    (opOf i s).charOut = s.charOut := by
  cases i with
  | readByte p => exact (PortSteps.portRead8 p s).charOut
  | writeByte p v => exact (PortSteps.portWrite8 p v s).charOut
  | readWord p => exact readWord_charOut p s
  | writeWord p v => exact portWrite16_charOut p v s
  | remap o1 o2 => exact (PortSteps.remap o1 o2 s).charOut
  | setMask line => exact updateMask_charOut setBit line s
  | clearMask line => exact updateMask_charOut clearBit line s
  | sendEoi line => exact sendEoi_charOut line s
  | readRequestRegister => exact readPicRegisters_charOut _ s
  | readServiceRegister => exact readPicRegisters_charOut _ s
  | setDescriptor v a x =>
    obtain ⟨m, vs, f, h⟩ := setDescriptor_frame v a x s
    rw [opOf, h]
  | init =>
    obtain ⟨m, vs, d, b, f, h⟩ := initTable_frame s
    rw [opOf, h]
  | dispatch e v => simp [Instr.mnemonic] at hi
  | keyboardDecode => simp [Instr.mnemonic] at hi

/-- Settles O58: while halted nothing changes; otherwise one case for each effect of `opOf_effect`. -/
theorem commandFootprint : Obligations.CommandFootprint := by
  intro i s t h
  rw [exec_eq] at h
  rcases hostCommand_next h with ⟨-, rfl⟩ | ⟨-, ht⟩
  · simp
  have hchar : i.mnemonic ∉ [.dispatch, .keyboardDecode] → t.charOut = s.charOut := fun hi => by
    rw [ht, opOf_charOut hi]
  have hbuild : i.mnemonic ∈ [.setDescriptor, .init] →
      t.portTrace = s.portTrace ∧ t.picM = s.picM ∧ t.picS = s.picS ∧ t.draws = s.draws := fun hi => by
    rw [ht]
    exact opOf_builder hi s
  have heff := opOf_effect i s
  rw [← ht] at heff
  clear h ht
  rcases heff with hq | ⟨hm, u, v, hp, rfl⟩ | ⟨v, a, x, rfl, -, rfl⟩ | ⟨rfl, -, rfl⟩ | ⟨e, v, rfl, rfl⟩
  · obtain ⟨pm, ps, f, tr, n, cs, rfl⟩ := hq.eq_update
    exact ⟨rfl, rfl, rfl, rfl, rfl, id, fun _ => ⟨rfl, rfl⟩, fun _ => ⟨rfl, rfl, rfl, rfl⟩,
      fun _ => ⟨rfl, rfl⟩, hchar, hbuild, hq.irrM, hq.irrS⟩
  · obtain ⟨pm, ps, f, tr, n, rfl⟩ := hp.eq_update
    exact ⟨rfl, rfl, rfl, rfl, rfl, id, fun hn => absurd hm hn, fun _ => ⟨rfl, rfl, rfl, rfl⟩,
      fun _ => ⟨rfl, rfl⟩, hchar, hbuild, hp.irrM, hp.irrS⟩
  · exact ⟨rfl, rfl, rfl, rfl, rfl, id, fun _ => ⟨rfl, rfl⟩, fun hn => (hn (.head _)).elim,
      fun _ => ⟨rfl, rfl⟩, hchar, hbuild, fun _ => id, fun _ => id⟩
  · obtain ⟨m, vs, hp⟩ := populate48_eq_update s
    rw [hp] at hchar hbuild ⊢
    exact ⟨rfl, rfl, rfl, rfl, rfl, fun _ => rfl, fun _ => ⟨rfl, rfl⟩, fun hn => (hn (.tail _ (.head _))).elim,
      fun _ => ⟨rfl, rfl⟩, hchar, hbuild, fun _ => id, fun _ => id⟩
  · exact ⟨rfl, rfl, rfl, rfl, rfl, id, fun _ => ⟨rfl, rfl⟩, fun _ => ⟨rfl, rfl, rfl, rfl⟩,
      fun hn => absurd rfl hn, hchar, hbuild, fun _ => id, fun _ => id⟩

/-! ## A halted block (R25) -/

/-- In a halted block an agent's effect is a latched request at most. -/
theorem AgentEffect.of_halted {s t : State} {e : Event} (h : AgentEffect s e t) (hh : s.halted = true)
    (he : e ≠ .reset) :
    t = { s with picM := { s.picM with irr := t.picM.irr }, picS := { s.picS with irr := t.picS.irr },
                 kbdData := t.kbdData, kbdWritten := t.kbdWritten } := by
  cases h with
  | skipped => rfl
  | reset => exact absurd rfl he
  | illegal w hacc => exact nomatch hh.symm.trans hacc.1
  | operation hw hacc => exact nomatch hh.symm.trans hacc.1
  | requested e c i hi d k => cases c <;> rfl
  | trap hu hr ht => exact nomatch hh.symm.trans (State.halted_of_running (hu.running_eq.symm.trans hr))

/-- A halted block stops on nothing. -/
theorem agentStep_halted (e : Event) {s : State} (hh : s.halted = true) :
    ∃ t, agentStep e s = .next t ∧ AgentEffect s e t := by
  have ha := agentStep_answers e s
  generalize agentStep e s = o at ha
  cases ha with
  | next h => exact ⟨_, rfl, h⟩
  | afterBadDelivery _ hh' => exact nomatch hh.symm.trans hh'
  | outsideTable hu hr => exact nomatch hh.symm.trans (State.halted_of_running (hu.running_eq.symm.trans hr))

/-- Settles O56: the entry is taken off and its agent's effect is a latched request at most. -/
theorem haltedIsTerminal : Obligations.HaltedIsTerminal := by
  intro s hh hr
  cases hs : s.schedule with
  | nil => exact ⟨s, step_nil hs, by rw [List.tail_nil, ← hs]⟩
  | cons e rest =>
    obtain ⟨t, hst, k⟩ := agentStep_halted e (s := { s with schedule := rest }) hh
    exact ⟨t, (step_cons hs).trans hst, k.of_halted hh (by simpa [hs] using hr)⟩

/-- Settles O11: an operation and a word are both run by `hostCommand`, which tests `HALTED` first. -/
theorem haltedCommandsDoNothing : Obligations.HaltedCommandsDoNothing := by
  intro s hh
  exact ⟨fun i => (exec_eq i s).trans (hostCommand_halted hh),
    fun w => (hostStep_eq w s).trans (hostCommand_halted hh)⟩

/-- Settles O12: behind `HALTED` = 0 `hostCommand` tests `BAD_DELIVERY`, before the operation or the word. -/
theorem commandsStopAfterBadDelivery : Obligations.CommandsStopAfterBadDelivery := by
  intro s hh hb
  exact ⟨fun i => (exec_eq i s).trans (hostCommand_afterBadDelivery hh hb),
    fun w => (hostStep_eq w s).trans (hostCommand_afterBadDelivery hh hb)⟩

end Sys2Proof.Machine
end

section
/-! PROOF. READ_BYTE of the keyboard's data port, and the ports that answer a draw (20_memory.md R63, R174,
R175). -/

namespace Sys2Proof.Machine

/-- READ_BYTE of an accepting state, from its device's answer (R61, R110): one record and `RESULT`. -/
theorem exec_readByte_of_deviceRead {s t : State} {p : Half} {b : Byte} (hacc : Accepts s)
    (h : deviceRead p s = (b, t)) :
    exec (.readByte p) s = .next ((t.trace (read8 p b)).setResult (b.setWidth 16)) := by
  rw [exec_accepts hacc, opOf, readByte, portRead8, h]
  rfl

/-- The keyboard's data port answers the byte last presented (R174). -/
theorem deviceRead_kbdDataPort_written {s : State} (h : s.kbdWritten = true) :
    deviceRead kbdDataPort s = (s.kbdData, s) := by
  simp only [deviceRead, decodePort_kbdDataPort, kbdDataRead, if_pos h]

/-- The ports whose answer is a draw: undecoded (R63), the keyboard's status (R175), and the keyboard's data
before the first key (R174). -/
theorem deviceRead_draw {s : State} {p : Half}
    (h : p ∉ decodedPorts ∨ p = kbdStatusPort ∨ (p = kbdDataPort ∧ s.kbdWritten = false)) :
    deviceRead p s = s.draw8 := by
  rcases h with hundec | rfl | ⟨rfl, hkey⟩
  · simp only [deviceRead, (decodePort_undecoded_iff p).mpr hundec]
  · simp only [deviceRead, decodePort_kbdStatusPort, kbdStatusRead]
  · simp only [deviceRead, decodePort_kbdDataPort, kbdDataRead, hkey, Bool.false_eq_true, if_false]

/-- Settles O16: each clause is READ_BYTE on its device's answer, the byte presented or a draw. -/
theorem readByteKeyboardAndDraws : Obligations.ReadByteKeyboardAndDraws := by
  intro s port hacc
  exact ⟨fun hkey => exec_readByte_of_deviceRead hacc (deviceRead_kbdDataPort_written hkey),
    fun hdraw => exec_readByte_of_deviceRead hacc (deviceRead_draw hdraw)⟩

end Sys2Proof.Machine
end

section
/-! PROOF. The command word's decoder and encoder (30_encoding.md R90 to R95): a row of R93's table read off a
word's fields, the decoder by rows, and the two round trips. -/

namespace Sys2Proof

/-! ## A row of the table, on any word (R93) -/

theorem Mnemonic.matchesWord_eq_true {m : Mnemonic} {w : CommandWord} :
    m.matchesWord w = true ↔ w &&& m.maskBits = m.matchBits := beq_iff_eq

/-- A word matches a row exactly when its opcode is the row's and every reserved bit of its fields is 0. -/
theorem Mnemonic.matchesWord_iff_fields (m : Mnemonic) (w : CommandWord) :
    m.matchesWord w = true ↔
      opField w = m.opcode ∧ aField w &&& m.maskFields.1 = 0 ∧ bField w &&& m.maskFields.2.1 = 0 ∧
        cField w &&& m.maskFields.2.2 = 0 := by
  conv_lhs => rw [← packWord_fields w]
  exact m.matchesWord_packWord _ _ _ _

/-- No word matches two rows: the opcodes tell them apart. -/
theorem Mnemonic.eq_of_matchesWord {m n : Mnemonic} {w : CommandWord} (hm : m.matchesWord w = true)
    (hn : n.matchesWord w = true) : m = n :=
  opcode_inj (((m.matchesWord_iff_fields w).mp hm).1.symm.trans ((n.matchesWord_iff_fields w).mp hn).1)

/-! ## The decoder, by rows (R93, R94) -/

/-- The decoder's search finds the one row that matches. -/
theorem Mnemonic.find?_matchesWord {m : Mnemonic} {w : CommandWord} (h : m.matchesWord w = true) :
    (Mnemonic.all.find? fun n => n.matchesWord w) = some m := by
  have hsome : (Mnemonic.all.find? fun n => n.matchesWord w).isSome = true :=
    List.find?_isSome.mpr ⟨m, m.mem_all, h⟩
  obtain ⟨n, hn⟩ := Option.isSome_iff_exists.mp hsome
  have hmatch : n.matchesWord w = true := List.find?_some (p := fun n : Mnemonic => n.matchesWord w) hn
  rw [hn, eq_of_matchesWord hmatch h]

theorem decodeWord_of_matchesWord {m : Mnemonic} {w : CommandWord} (h : m.matchesWord w = true) :
    decodeWord w = .ok (operandsOf m w) := by
  rw [decodeWord, Mnemonic.find?_matchesWord h]

theorem decodeWord_of_no_match {w : CommandWord} (h : ∀ m : Mnemonic, ¬m.matchesWord w = true) :
    decodeWord w = .illegal (whyIllegal w) := by
  rw [decodeWord, List.find?_eq_none.mpr fun m _ => h m]

theorem decodeWord_eq_ok_iff {w : CommandWord} {i : Instr} :
    decodeWord w = .ok i ↔ ∃ m : Mnemonic, m.matchesWord w = true ∧ operandsOf m w = i := by
  constructor
  · intro h
    by_cases hex : ∃ m : Mnemonic, m.matchesWord w = true
    · obtain ⟨m, hm⟩ := hex
      exact ⟨m, hm, Decoded.ok.inj ((decodeWord_of_matchesWord hm).symm.trans h)⟩
    · exact nomatch (decodeWord_of_no_match (not_exists.mp hex)).symm.trans h
  · rintro ⟨m, hm, rfl⟩
    exact decodeWord_of_matchesWord hm

theorem decodeWord_illegal_iff {w : CommandWord} :
    (∃ why, decodeWord w = .illegal why) ↔ ∀ m : Mnemonic, ¬m.matchesWord w = true := by
  constructor
  · rintro ⟨why, h⟩ m hm
    exact nomatch (decodeWord_of_matchesWord hm).symm.trans h
  · exact fun h => ⟨_, decodeWord_of_no_match h⟩

@[simp] theorem operandsOf_mnemonic (m : Mnemonic) (w : CommandWord) : (operandsOf m w).mnemonic = m := by
  cases m <;> rfl

/-! ## Decoding after encoding -/

/-- The word of an operation is one of its own row (Laws/PerInstr.lean, by operation). -/
theorem matchesWord_encode (i : Instr) : i.mnemonic.matchesWord (encode i) = true := by
  cases i with
  | readByte port => exact Laws.EncodingShape.readByte port
  | writeByte port value => exact Laws.EncodingShape.writeByte port value
  | readWord port => exact Laws.EncodingShape.readWord port
  | writeWord port value => exact Laws.EncodingShape.writeWord port value
  | remap offset1 offset2 => exact Laws.EncodingShape.remap offset1 offset2
  | setMask line => exact Laws.EncodingShape.setMask line
  | clearMask line => exact Laws.EncodingShape.clearMask line
  | sendEoi line => exact Laws.EncodingShape.sendEoi line
  | readRequestRegister => exact Laws.EncodingShape.readRequestRegister
  | readServiceRegister => exact Laws.EncodingShape.readServiceRegister
  | setDescriptor vector handler attributes => exact Laws.EncodingShape.setDescriptor vector handler attributes
  | init => exact Laws.EncodingShape.init
  | dispatch errorCode vector => exact Laws.EncodingShape.dispatch errorCode vector
  | keyboardDecode => exact Laws.EncodingShape.keyboardDecode

theorem setWidth_half_word (p : Half) : (p.setWidth 32).setWidth 16 = p := by
  rw [BitVec.setWidth_setWidth_of_le _ (by decide), BitVec.setWidth_eq]

theorem setWidth_byte_word (b : Byte) : (b.setWidth 32).setWidth 8 = b := by
  rw [BitVec.setWidth_setWidth_of_le _ (by decide), BitVec.setWidth_eq]

/-- Every operand is the slice of the field the encoder put it in. -/
theorem operandsOf_encode (i : Instr) : operandsOf i.mnemonic (encode i) = i := by
  cases i <;>
    simp only [Instr.mnemonic, operandsOf, encode, aField_packWord, bField_packWord, cField_packWord,
      setWidth_half_word, setWidth_byte_word]

/-- Settles O1: the word matches the operation's row, and the row's slices are the operands. -/
theorem decodeOfEncode : Obligations.DecodeOfEncode := fun i => by
  rw [decodeWord_of_matchesWord (matchesWord_encode i), operandsOf_encode]

/-! ## Encoding after decoding -/

/-- A field reserved whole is 0 in a matching word. -/
theorem zero_of_reserved {n : Nat} {a : BitVec n} (h : a &&& BitVec.allOnes n = 0) : 0 = a := by
  rw [← h, BitVec.and_allOnes]

/-- A field whose bits above `n` are 0 is its low `n` bits extended. -/
theorem setWidth_setWidth_of_and_mask {n : Nat} {a : Word} (h : a &&& (BitVec.allOnes 32 <<< n) = 0) :
    (a.setWidth n).setWidth 32 = a := by
  apply BitVec.eq_of_getLsbD_eq
  intro j hj
  by_cases hn : j < n
  · simp [hn, hj]
  · have hbit := congrArg (·.getLsbD j) h
    simp only [BitVec.getLsbD_and, BitVec.getLsbD_shiftLeft, BitVec.getLsbD_allOnes] at hbit
    simpa [hn, hj, show j - n < 32 by omega] using hbit

theorem half_of_reserved {a : Word} (h : a &&& 0xFFFF0000 = 0) : (a.setWidth 16).setWidth 32 = a :=
  setWidth_setWidth_of_and_mask h

theorem byte_of_reserved {a : Word} (h : a &&& 0xFFFFFF00 = 0) : (a.setWidth 8).setWidth 32 = a :=
  setWidth_setWidth_of_and_mask h

/-- Reserved bits of a matching word are 0, so its row's slices pack to it again. -/
theorem encode_operandsOf {m : Mnemonic} {w : CommandWord} (h : m.matchesWord w = true) :
    encode (operandsOf m w) = w := by
  obtain ⟨ho, ha, hb, hc⟩ := (m.matchesWord_iff_fields w).mp h
  refine Eq.trans ?_ (packWord_fields w)
  rw [ho]
  cases m with
  | readByte => exact packWord_inj.mpr ⟨rfl, half_of_reserved ha, zero_of_reserved hb, zero_of_reserved hc⟩
  | writeByte => exact packWord_inj.mpr ⟨rfl, half_of_reserved ha, zero_of_reserved hb, rfl⟩
  | readWord => exact packWord_inj.mpr ⟨rfl, half_of_reserved ha, zero_of_reserved hb, zero_of_reserved hc⟩
  | writeWord => exact packWord_inj.mpr ⟨rfl, half_of_reserved ha, half_of_reserved hb, zero_of_reserved hc⟩
  | remap => exact packWord_inj.mpr ⟨rfl, byte_of_reserved ha, byte_of_reserved hb, zero_of_reserved hc⟩
  | setMask => exact packWord_inj.mpr ⟨rfl, zero_of_reserved ha, zero_of_reserved hb, rfl⟩
  | clearMask => exact packWord_inj.mpr ⟨rfl, zero_of_reserved ha, zero_of_reserved hb, rfl⟩
  | sendEoi => exact packWord_inj.mpr ⟨rfl, zero_of_reserved ha, zero_of_reserved hb, rfl⟩
  | readRequestRegister => exact packWord_inj.mpr ⟨rfl, zero_of_reserved ha, zero_of_reserved hb, zero_of_reserved hc⟩
  | readServiceRegister => exact packWord_inj.mpr ⟨rfl, zero_of_reserved ha, zero_of_reserved hb, zero_of_reserved hc⟩
  | setDescriptor => exact packWord_inj.mpr ⟨rfl, rfl, rfl, rfl⟩
  | init => exact packWord_inj.mpr ⟨rfl, zero_of_reserved ha, zero_of_reserved hb, zero_of_reserved hc⟩
  | dispatch => exact packWord_inj.mpr ⟨rfl, rfl, rfl, zero_of_reserved hc⟩
  | keyboardDecode => exact packWord_inj.mpr ⟨rfl, zero_of_reserved ha, zero_of_reserved hb, zero_of_reserved hc⟩

/-- Settles O2: a decoded word matches a row, and the row's slices encode to the word. -/
theorem encodeOfDecode : Obligations.EncodeOfDecode := by
  intro w i h
  obtain ⟨m, hm, rfl⟩ := decodeWord_eq_ok_iff.mp h
  exact encode_operandsOf hm

/-! ## Which words are legal -/

/-- Settles O3: the decoder's operation is of the row that matches, and no second row matches. -/
theorem decodedIffRowMatches : Obligations.DecodedIffRowMatches := by
  refine ⟨fun w m => ?_, fun w m n hm hn =>
    Mnemonic.eq_of_matchesWord (Mnemonic.matchesWord_eq_true.mpr hm) (Mnemonic.matchesWord_eq_true.mpr hn)⟩
  rw [← Mnemonic.matchesWord_eq_true]
  constructor
  · exact fun h => ⟨_, decodeWord_of_matchesWord h, operandsOf_mnemonic m w⟩
  · rintro ⟨i, hi, rfl⟩
    obtain ⟨m, hm, rfl⟩ := decodeWord_eq_ok_iff.mp hi
    rwa [operandsOf_mnemonic]

/-- A word is its opcode and the 72 bits below it (R91). -/
theorem commandWord_eq_iff {v w : CommandWord} :
    v = w ↔ opField v = opField w ∧ ∀ j < 72, v.getLsbD j = w.getLsbD j := by
  refine ⟨fun h => by simp [h], fun ⟨hop, hlow⟩ => BitVec.eq_of_getLsbD_eq fun j hj => ?_⟩
  by_cases h : j < 72
  · exact hlow j h
  · have hbit := congrArg (·.getLsbD (j - 72)) hop
    have hj' : 72 + (j - 72) = j := by omega
    simpa [opField, BitVec.getLsbD_extractLsb', hj', show j - 72 < 8 by omega] using hbit

theorem opField_and (v w : CommandWord) : opField (v &&& w) = opField v &&& opField w :=
  BitVec.extractLsb'_and

theorem Mnemonic.opField_maskBits (m : Mnemonic) : opField m.maskBits = BitVec.allOnes 8 := by
  rw [maskBits_eq, opField_packWord]
  rfl

theorem Mnemonic.opField_matchBits (m : Mnemonic) : opField m.matchBits = m.opcode := by
  rw [matchBits_eq, opField_packWord]

theorem Mnemonic.matchBits_low (m : Mnemonic) {j : Nat} (hj : j < 72) : m.matchBits.getLsbD j = false := by
  have hA : j - 8 - 32 < 32 := by omega
  simp only [matchBits_eq, packWord, BitVec.getLsbD_append, hA, if_true, BitVec.ofNat_eq_ofNat,
    BitVec.getLsbD_zero, ite_self]

/-- A word matches a row exactly when its opcode is the row's and no reserved bit below it is 1 (R94). -/
theorem Mnemonic.matchesWord_iff_bits (m : Mnemonic) (w : CommandWord) :
    m.matchesWord w = true ↔
      opField w = m.opcode ∧ ∀ j < 72, m.maskBits.getLsbD j = true → ¬w.getLsbD j = true := by
  rw [matchesWord_eq_true, commandWord_eq_iff, opField_and, opField_maskBits, BitVec.and_allOnes,
    opField_matchBits]
  refine and_congr_right fun _ => forall₂_congr fun j hj => ?_
  rw [BitVec.getLsbD_and, m.matchBits_low hj]
  cases w.getLsbD j <;> simp

/-- Settles O4: no row matches exactly if no row has the opcode, or the row that has it reserves a bit that
is 1. -/
theorem illegalExactly : Obligations.IllegalExactly := by
  intro w
  simp only [decodeWord_illegal_iff, Mnemonic.matchesWord_iff_bits]
  constructor
  · intro h
    by_cases hex : ∃ m : Mnemonic, opField w = m.opcode
    · obtain ⟨m, hm⟩ := hex
      have hbits := not_and.mp (h m) hm
      push Not at hbits
      exact .inr ⟨m, hm, hbits⟩
    · exact .inl (not_exists.mp hex)
  · rintro (hop | ⟨m, hm, j, hj, hmask, hbit⟩) n ⟨hn, hzero⟩
    · exact hop n hn
    · obtain rfl := Mnemonic.opcode_inj (hm.symm.trans hn)
      exact hzero j hj hmask hbit

end Sys2Proof
end

section
/-! PROOF. A command as ten bytes, and as a line of assembler (30_encoding.md R91, R104). -/

namespace Sys2Proof

/-! ## Ten bytes (R91) -/

/-- Reading on by one byte: the top bits read so far, moved up, and the eight bits of the word below them. -/
theorem shiftLeft_or_next_byte (w : CommandWord) {k : Nat} (hk : k < 10) :
    (w >>> (80 - 8 * k)) <<< 8 ||| (w.extractLsb' (72 - 8 * k) 8).setWidth 80 = w >>> (80 - 8 * (k + 1)) := by
  apply BitVec.eq_of_getLsbD_eq
  intro j hj
  by_cases h : j < 8
  · simp [h, hj, show 80 - 8 * (k + 1) = 72 - 8 * k by omega]
  · simp [h, hj, show 80 - 8 * k + (j - 8) = 80 - 8 * (k + 1) + j by omega]

@[simp] theorem bytesOfWord_length (w : CommandWord) : (bytesOfWord w).length = 10 := by
  rw [bytesOfWord, List.length_map, List.length_range]

theorem bytesOfWord_getElem? (w : CommandWord) {k : Nat} (hk : k < 10) :
    (bytesOfWord w)[k]? = some (w.extractLsb' (72 - 8 * k) 8) := by
  rw [bytesOfWord, List.getElem?_map, List.getElem?_range hk, Option.map_some]

/-- The first `n` bytes of a word, read in order, are its top `8 * n` bits. -/
theorem foldl_take_bytesOfWord (w : CommandWord) {n : Nat} (hn : n ≤ 10) :
    ((bytesOfWord w).take n).foldl (fun (v : CommandWord) b => (v <<< 8) ||| b.setWidth 80) 0 =
      w >>> (80 - 8 * n) := by
  induction n with
  | zero => exact (BitVec.ushiftRight_eq_zero (Nat.le_refl 80)).symm
  | succ n ih =>
    rw [List.take_add_one, bytesOfWord_getElem? w hn, List.foldl_append, ih (Nat.le_of_succ_le hn)]
    exact shiftLeft_or_next_byte w hn

theorem wordOfBytes_bytesOfWord_append (w : CommandWord) (rest : List Byte) :
    wordOfBytes (bytesOfWord w ++ rest) = w := by
  rw [wordOfBytes, List.take_append_of_le_length (by simp), foldl_take_bytesOfWord w (Nat.le_refl 10)]
  exact BitVec.ushiftRight_zero w

theorem decodeBytes_bytesOfWord_append (w : CommandWord) (rest : List Byte) :
    decodeBytes (bytesOfWord w ++ rest) = (decodeWord w, rest) := by
  have hlen : ¬(bytesOfWord w ++ rest).length < 10 := by simp
  rw [decodeBytes, if_neg hlen, wordOfBytes_bytesOfWord_append, List.drop_left' (bytesOfWord_length w)]

/-- Settles O5: the ten bytes read in order are the word, and byte `k` stands at place `k`. -/
theorem commandBytes : Obligations.CommandBytes := fun w rest =>
  ⟨decodeBytes_bytesOfWord_append w rest, fun _ => bytesOfWord_getElem? w⟩

/-- What the table's decoder reads is what the word decodes to (log 2). -/
theorem decodeWord_tableWord {nbits w : Nat} {i : Instr} (h : decodeTableWord nbits w = some i) :
    decodeWord (tableWord nbits w) = .ok i := by
  have hbytes := decodeBytes_bytesOfWord_append (tableWord nbits w) []
  rw [List.append_nil] at hbytes
  rw [decodeTableWord, hbytes] at h
  cases hw : decodeWord (tableWord nbits w) with
  | ok j => simpa [hw, Decoded.toOption] using h
  | illegal why => simp [hw, Decoded.toOption] at h

end Sys2Proof

namespace Sys2Proof.Machine

/-! ## A line of assembler (R104) -/

/-- Numerals that fit are as many as the widths. -/
theorem length_eq_of_numeralsFit : ∀ {ws ns : List Nat}, numeralsFit ws ns = true → ns.length = ws.length
  | [], [], _ => rfl
  | _ :: _, _ :: _, h => congrArg (· + 1) (length_eq_of_numeralsFit (Bool.and_eq_true_iff.mp h).2)

/-- The operands of an operation fit: each has its operand's width. -/
theorem wellFormed_instrAsm (i : Instr) : (instrAsm i).wellFormed = true := by
  cases i <;>
    simp only [instrAsm, AsmLine.wellFormed, Mnemonic.operandWidths, numeralsFit, BitVec.isLt, decide_true,
      Bool.and_self]

theorem asmInstr_instrAsm (i : Instr) : asmInstr (instrAsm i) = some i := by
  rw [asmInstr, if_pos (wellFormed_instrAsm i)]
  cases i <;> simp [instrAsm]

theorem asmInstr_of_not_wellFormed {l : AsmLine} (h : l.wellFormed = false) : asmInstr l = none := by
  rw [asmInstr, if_neg (by simp [h])]

/-- A line that fits has as many numerals as its mnemonic takes, so one of the operations is its meaning. -/
theorem asmInstr_of_wellFormed {l : AsmLine} (h : l.wellFormed = true) : ∃ i, asmInstr l = some i := by
  obtain ⟨m, ns⟩ := l
  have hlen := length_eq_of_numeralsFit h
  rw [asmInstr, if_pos h]
  cases m with
  | readByte => obtain ⟨a, rfl⟩ := List.length_eq_one_iff.mp hlen; exact ⟨_, rfl⟩
  | writeByte => obtain ⟨a, b, rfl⟩ := List.length_eq_two.mp hlen; exact ⟨_, rfl⟩
  | readWord => obtain ⟨a, rfl⟩ := List.length_eq_one_iff.mp hlen; exact ⟨_, rfl⟩
  | writeWord => obtain ⟨a, b, rfl⟩ := List.length_eq_two.mp hlen; exact ⟨_, rfl⟩
  | remap => obtain ⟨a, b, rfl⟩ := List.length_eq_two.mp hlen; exact ⟨_, rfl⟩
  | setMask => obtain ⟨a, rfl⟩ := List.length_eq_one_iff.mp hlen; exact ⟨_, rfl⟩
  | clearMask => obtain ⟨a, rfl⟩ := List.length_eq_one_iff.mp hlen; exact ⟨_, rfl⟩
  | sendEoi => obtain ⟨a, rfl⟩ := List.length_eq_one_iff.mp hlen; exact ⟨_, rfl⟩
  | readRequestRegister => obtain rfl := List.length_eq_zero_iff.mp hlen; exact ⟨_, rfl⟩
  | readServiceRegister => obtain rfl := List.length_eq_zero_iff.mp hlen; exact ⟨_, rfl⟩
  | setDescriptor => obtain ⟨a, b, c, rfl⟩ := List.length_eq_three.mp hlen; exact ⟨_, rfl⟩
  | init => obtain rfl := List.length_eq_zero_iff.mp hlen; exact ⟨_, rfl⟩
  | dispatch => obtain ⟨a, b, rfl⟩ := List.length_eq_two.mp hlen; exact ⟨_, rfl⟩
  | keyboardDecode => obtain rfl := List.length_eq_zero_iff.mp hlen; exact ⟨_, rfl⟩

/-- Settles O7: an operation's numerals fit by their widths, and a line that fits is an operation. -/
theorem assemblerLines : Obligations.AssemblerLines := by
  refine ⟨asmInstr_instrAsm, fun l => ⟨fun hnone => Bool.eq_false_iff.mpr fun hfit => ?_,
    asmInstr_of_not_wellFormed⟩⟩
  obtain ⟨i, hi⟩ := asmInstr_of_wellFormed hfit
  exact nomatch hnone.symm.trans hi

end Sys2Proof.Machine
end

section
/-! PROOF. The bytes of a written gate in table memory (20_memory.md R66, 30_encoding.md R97), and the step of the
schedule's first entry (30_encoding.md R95). -/

namespace Sys2Proof.Machine

/-! ## A gate's bytes -/

/-- The eight bytes at a gate's address after the gate is written there. -/
theorem Memory.map_read_writeGate (a : Nat) (g : Gate) (m : Memory) :
    (List.range 8).map (fun k => (Memory.writeGate a g m).read (a + k)) = (List.range 8).map (gateByte g) := by
  refine List.map_congr_left fun k hk => ?_
  have hk : k < 8 := List.mem_range.mp hk
  rw [Memory.read_writeGate, if_pos (by omega), Nat.add_sub_cancel_left]

/-- The layout of R97, byte by byte, lowest address first. -/
theorem packGate_bytes (handler : Word) (attributes : Byte) :
    (List.range 8).map (gateByte (packGate handler attributes)) =
      [handler.extractLsb' 0 8, handler.extractLsb' 8 8, 0x08, 0x00, 0x00, attributes,
       handler.extractLsb' 16 8, handler.extractLsb' 24 8] := by
  have hrange : List.range 8 = [0, 1, 2, 3, 4, 5, 6, 7] := rfl
  simp only [hrange, List.map_cons, List.map_nil, List.cons.injEq, and_true]
  refine ⟨?_, ?_, ?_, ?_, ?_, ?_, ?_, ?_⟩ <;>
  · apply BitVec.eq_of_getLsbD_eq
    intro i hi
    simp only [gateByte, packGate, highHalf, lowHalf, BitVec.getLsbD_append, BitVec.getLsbD_extractLsb']
    interval_cases i <;> simp [kernelCs]

/-- Settles O36: SET_DESCRIPTOR writes the packed gate at the gate's address, and its bytes are read back. -/
theorem gateByteImage : Obligations.GateByteImage := by
  intro s vector handler attributes hacc hv
  refine ⟨_, exec_accepts hacc _, ?_⟩
  rw [opOf, setDescriptor_good hv, State.writeGate_mem]
  exact (Memory.map_read_writeGate _ _ s.mem).trans (packGate_bytes handler attributes)

/-! ## The step of a command (R95) -/

theorem hostStep_of_ok {w : CommandWord} {i : Instr} (h : decodeWord w = .ok i) (s : State) :
    hostStep w s = exec i s := by
  rw [hostStep_eq, wordOp_of_ok h, exec_eq]

theorem step_command {s : State} {w : CommandWord} {rest : List Event} {i : Instr}
    (hs : s.schedule = .command w :: rest) (hw : decodeWord w = .ok i) :
    step s = exec i { s with schedule := rest } :=
  (step_cons hs).trans (hostStep_of_ok hw _)

/-- Settles O8: each entry's agent takes the step on the state with the entry taken off. -/
theorem stepRunsDecoded : Obligations.StepRunsDecoded :=
  ⟨fun _ _ _ _ => step_command, fun _ _ => step_cons, fun _ _ _ _ _ => step_cons, fun _ => step_nil⟩

/-- Settles O9: the word placed is the schedule's first entry, and taking it off gives the state back. -/
theorem fetchedWordRuns : Obligations.FetchedWordRuns := fun s nbits w _ h =>
  step_command (s := s.withFetchWord nbits w) rfl (decodeWord_tableWord h)

/-- Settles O10: an accepted illegal word raises `ILLEGAL_CMD`, bit 2 of `FAULT`, and nothing else. -/
theorem illegalWordRaises : Obligations.IllegalWordRaises := by
  intro s w rest why hacc hs hw
  calc step s = hostStep w { s with schedule := rest } := step_cons hs
    _ = hostCommand (State.raise .illegalCmd) { s with schedule := rest } := by
      rw [hostStep_eq, wordOp_of_illegal hw]
    _ = .next { s with schedule := rest, fault := s.fault ||| 0x04 } := hostCommand_accepts hacc

end Sys2Proof.Machine
end

section
/-! PROOF. READ_BYTE at every port and of an operating controller, and WRITE_BYTE at every port (20_memory.md R61,
R63, 40_port_access.md R110, R111, 60_exceptions.md R171, R173, R176). -/

namespace Sys2Proof.Machine

/-! ## What a device's answer costs -/

/-- A command-port read leaves the state, or is the refused draw of an initialisation sequence (R171). -/
theorem picCmdRead_cost (c : Chip) (s : State) :
    (picCmdRead c s).2 = s ∨ (picCmdRead c s).2 = (s.raise .picUnmodelled).draw8.2 := by
  unfold picCmdRead
  split
  · exact .inr rfl
  · split <;> exact .inl rfl

/-- A data-port read leaves the state, or is the refused draw of an initialisation sequence (R173). -/
theorem picDataRead_cost (c : Chip) (s : State) :
    (picDataRead c s).2 = s ∨ (picDataRead c s).2 = (s.raise .picUnmodelled).draw8.2 := by
  unfold picDataRead
  split
  · exact .inr rfl
  · exact .inl rfl

/-- The keyboard's data port leaves the state, or draws before the first key (R174). -/
theorem kbdDataRead_cost (s : State) : (kbdDataRead s).2 = s ∨ (kbdDataRead s).2 = s.draw8.2 := by
  unfold kbdDataRead
  split
  · exact .inl rfl
  · exact .inr rfl

/-- A device read leaves the state, or draws, or draws and raises `PIC_UNMODELLED`. -/
theorem deviceRead_cost (p : Half) (s : State) :
    (deviceRead p s).2 = s ∨ (deviceRead p s).2 = s.draw8.2 ∨
      (deviceRead p s).2 = (s.raise .picUnmodelled).draw8.2 := by
  unfold deviceRead
  cases decodePort p with
  | picCmd c => exact (picCmdRead_cost c s).imp_right .inr
  | picData c => exact (picDataRead_cost c s).imp_right .inr
  | kbdData => exact (kbdDataRead_cost s).imp_right .inl
  | kbdStatus => exact .inr (.inl rfl)
  | undecoded => exact .inr (.inl rfl)

/-- Settles O14: one record and `RESULT` on each of the three costs of the device's answer. -/
theorem readByteEveryPort : Obligations.ReadByteEveryPort := by
  intro s port hacc
  have h := exec_readByte_of_deviceRead hacc (Prod.mk.eta (p := deviceRead port s)).symm
  rcases deviceRead_cost port s with hc | hc | hc <;> rw [hc] at h
  · exact ⟨_, s.fault, s.draws, h, .inl rfl, .inl rfl⟩
  · exact ⟨_, s.fault, s.draws + 1, h, .inl rfl, .inr rfl⟩
  · exact ⟨_, s.fault ||| 0x20, s.draws + 1, h, .inr rfl, .inr rfl⟩

/-! ## READ_BYTE of an operating controller -/

/-- READ_BYTE of an accepting state is the port access and then `RESULT` (R110). -/
theorem exec_readByte_of_portRead8 {s t : State} {p : Half} {b : Byte} (hacc : Accepts s)
    (h : portRead8 p s = (b, t)) : exec (.readByte p) s = .next (t.setResult (b.setWidth 16)) := by
  rw [exec_accepts hacc, opOf, readByte, h]

/-- Settles O15: the data port answers the mask, and the premises on `b` say it is the selected register. -/
theorem readByteController : Obligations.ReadByteController := by
  intro s c hacc hop
  refine ⟨exec_readByte_of_portRead8 hacc (portRead8_dataPort_operating hop), fun b hisr hslave hmaster => ?_⟩
  have hb : b = selectedByte c (s.pic c).rsel s := by
    cases hr : (s.pic c).rsel with
    | isr => exact hisr hr
    | irr =>
      cases c with
      | master => exact hmaster hr rfl
      | slave => exact hslave hr rfl
  rw [hb]
  exact exec_readByte_of_portRead8 hacc (portRead8_operating hop)

/-! ## WRITE_BYTE -/

/-- A port that is none of the controllers' is the keyboard's or undecoded (R62). -/
theorem decodePort_of_not_controller {p : Half} (h : p ∉ [0x20, 0x21, 0xA0, 0xA1]) :
    decodePort p = .kbdData ∨ decodePort p = .kbdStatus ∨ decodePort p = .undecoded := by
  simp only [List.mem_cons, List.not_mem_nil, or_false, not_or] at h
  obtain ⟨hcmd1, hdata1, hcmd2, hdata2⟩ := h
  unfold decodePort pic1Cmd pic1Data pic2Cmd pic2Data
  rw [if_neg hcmd1, if_neg hdata1, if_neg hcmd2, if_neg hdata2]
  split
  · exact .inl rfl
  · split
    · exact .inr (.inl rfl)
    · exact .inr (.inr rfl)

/-- Only the controllers take a written byte (R63, R176). -/
theorem deviceWrite_of_not_controller {p : Half} (h : p ∉ [0x20, 0x21, 0xA0, 0xA1]) (v : Byte) (s : State) :
    deviceWrite p v s = s := by
  unfold deviceWrite
  rcases decodePort_of_not_controller h with hd | hd | hd <;> rw [hd] <;> rfl

/-- Settles O18: outside the controller ports the device does nothing, and everywhere the frame of a byte write
holds. -/
theorem writeByteEveryPort : Obligations.WriteByteEveryPort := by
  intro s port value hacc
  rw [exec_accepts hacc, opOf]
  constructor
  · intro hport
    rw [portWrite8, deviceWrite_of_not_controller hport]
    rfl
  · obtain ⟨pm, ps, f, h, hf, -, -⟩ := portWrite8_frame port value s
    exact ⟨pm, ps, f, congrArg _ h, hf⟩

end Sys2Proof.Machine
end

section
/-! PROOF. READ_WORD and WRITE_WORD at every port (20_memory.md R64, 40_port_access.md R112, R113): the ports at
which a word access is refused are the ten R64 derives. -/

namespace Sys2Proof.Machine

/-! ## The refused ports (R64) -/

theorem isDecoded_iff (p : Half) : isDecoded p = true ↔ p ∈ decodedPorts := by
  rw [isDecoded, bne_iff_ne, ne_eq, decodePort_undecoded_iff, not_not]

/-- A port stands right below a decoded one exactly if it is a decoded one less 1, modulo 65536. -/
theorem succ_mem_decodedPorts_iff (p : Half) : p + 1 ∈ decodedPorts ↔ p ∈ decodedPorts.map (· - 1) := by
  simp only [List.mem_map, sub_eq_iff_eq_add, exists_eq_right]

/-- A word access covers a decoded port at exactly the ten listed: the decoded ports and those right below one. -/
theorem coversDecoded_iff (p : Half) : coversDecoded p = true ↔ p ∈ wordRefusedPorts := by
  have hsub : decodedPorts ++ decodedPorts.map (· - 1) ⊆ wordRefusedPorts := by decide
  have hsup : wordRefusedPorts ⊆ decodedPorts ++ decodedPorts.map (· - 1) := by decide
  rw [coversDecoded, Bool.or_eq_true, isDecoded_iff, isDecoded_iff, succ_mem_decodedPorts_iff,
    ← List.mem_append]
  exact ⟨fun h => hsub h, fun h => hsup h⟩

/-! ## The two word accesses -/

theorem readWord_refused {p : Half} (h : p ∈ wordRefusedPorts) (s : State) :
    readWord p s = s.raise .portWidth := by
  rw [readWord, portRead16, if_pos ((coversDecoded_iff p).mpr h)]

theorem readWord_drawn {p : Half} (h : p ∉ wordRefusedPorts) (s : State) :
    readWord p s = (s.draw16.2.trace ⟨.read, p, .w16 s.draw16.1⟩).setResult s.draw16.1 := by
  rw [readWord, portRead16, if_neg (mt (coversDecoded_iff p).mp h)]

theorem portWrite16_refused {p : Half} (h : p ∈ wordRefusedPorts) (v : Half) (s : State) :
    portWrite16 p v s = s.raise .portWidth := by
  rw [portWrite16, if_pos ((coversDecoded_iff p).mpr h)]

theorem portWrite16_recorded {p : Half} (h : p ∉ wordRefusedPorts) (v : Half) (s : State) :
    portWrite16 p v s = s.trace ⟨.write, p, .w16 v⟩ := by
  rw [portWrite16, if_neg (mt (coversDecoded_iff p).mp h)]

/-- Settles O21: `PORT_WIDTH` is bit 4 of `FAULT`, and the draw, its record and `RESULT` are one state. -/
theorem readWordEveryPort : Obligations.ReadWordEveryPort := by
  intro s port hacc
  rw [exec_accepts hacc, opOf]
  exact ⟨fun h => congrArg _ (readWord_refused h s), fun h => congrArg _ (readWord_drawn h s)⟩

/-- Settles O22: `PORT_WIDTH` is bit 4 of `FAULT`, and elsewhere a word write is its record. -/
theorem writeWordEveryPort : Obligations.WriteWordEveryPort := by
  intro s port value hacc
  rw [exec_accepts hacc, opOf]
  exact ⟨fun h => congrArg _ (portWrite16_refused h value s),
    fun h => congrArg _ (portWrite16_recorded h value s)⟩

end Sys2Proof.Machine
end

section
/-! PROOF. Example words of the spec, each the encoder's word of its operation (30_encoding.md R92, R93). -/

namespace Sys2Proof

theorem decodeWord_of_encode_eq {w : CommandWord} {i : Instr} (h : encode i = w) : decodeWord w = .ok i := by
  rw [← h]
  exact decodeOfEncode i

/-- Settles O6: each word is the encoder's, so it decodes to the operation it encodes. -/
theorem workedWordsDecode : Obligations.WorkedWordsDecode :=
  ⟨decodeWord_of_encode_eq (by decide), decodeWord_of_encode_eq (by decide),
    decodeWord_of_encode_eq (by decide), decodeWord_of_encode_eq (by decide),
    decodeWord_of_encode_eq (by decide), decodeWord_of_encode_eq (by decide),
    decodeWord_of_encode_eq (by decide)⟩

end Sys2Proof
end

section
/-! PROOF. SET_MASK and CLEAR_MASK at every line (41_pic_controller.md R121, R122, R126): a line above 15, a line whose
controller is operating, and one whose controller is inside an initialisation sequence. -/

namespace Sys2Proof.Machine

/-! ## A line above 15 (R126) -/

theorem updateMask_badLine {line : Byte} (h : 15 < line.toNat) (u : Byte → Nat → Byte) (s : State) :
    updateMask u line s = s.raise .badLine := by
  rw [updateMask, lineTarget_bad h]

theorem sendEoi_badLine {line : Byte} (h : 15 < line.toNat) (s : State) : sendEoi line s = s.raise .badLine := by
  rw [sendEoi, lineTarget_bad h]

/-- Settles O26: no target, so the operation is the raise alone, and `BAD_LINE` is bit 1 of `FAULT`. -/
theorem badLineRefused : Obligations.BadLineRefused := by
  intro s line hacc hline
  simp only [exec_accepts hacc, opOf]
  exact ⟨congrArg _ (updateMask_badLine hline setBit s), congrArg _ (updateMask_badLine hline clearBit s),
    congrArg _ (sendEoi_badLine hline s)⟩

/-! ## A line whose controller is operating -/

theorem State.trace_trace (a b : PortRecord) (s : State) :
    (s.trace a).trace b = { s with portTrace := s.portTrace ++ [a, b] } := by
  simp only [State.trace, List.append_assoc, List.singleton_append]

/-- Settles O25: `updateMask_operating` at each of the two updates, its two records written as one list. -/
theorem maskUpdate : Obligations.MaskUpdate := by
  rintro s line _ _ hacc hline rfl hop rfl
  simp only [exec_accepts hacc, opOf, updateMask_operating hline hop, State.trace_trace]
  exact ⟨rfl, rfl⟩

/-! ## A line whose controller is inside an initialisation sequence -/

/-- `PIC_UNMODELLED` raised again leaves `FAULT` as it is. -/
theorem unmodelled_again (f : Byte) : f ||| 0x20 ||| 0x20 = f ||| 0x20 := by
  rw [BitVec.or_assoc, BitVec.or_self]

/-- The state a refused read of a data port leaves: `PIC_UNMODELLED`, one draw, its record (R173). -/
def State.refusedRead (c : Chip) (s : State) : State :=
  { s with fault := s.fault ||| 0x20, draws := s.draws + 1,
           portTrace := s.portTrace ++ [read8 (dataPort c) (Config.freeByte s.draws)] }

@[simp] theorem State.refusedRead_pic (c d : Chip) (s : State) : (s.refusedRead c).pic d = s.pic d := by
  cases d <;> rfl

theorem portRead8_dataPort_insideInit {c : Chip} {s : State} (hop : ¬Operating c s) :
    portRead8 (dataPort c) s = (Config.freeByte s.draws, s.refusedRead c) :=
  portRead8_insideInit hop (.inr rfl)

/-- The refused read has set `PIC_UNMODELLED` already, so a write after it leaves `FAULT` alone whether or not it
is refused too. -/
theorem portWrite8_refusedRead {c : Chip} {s : State} (hop : ¬Operating c s) (b : Byte) :
    portWrite8 (dataPort c) b (s.refusedRead c) =
      ((s.refusedRead c).trace (wrote8 (dataPort c) b)).setPic c (afterInitWord c b (s.pic c)) := by
  obtain ⟨f, hf, hw⟩ := portWrite8_insideInit (s := s.refusedRead c) (by rwa [Operating, State.refusedRead_pic]) b
  have hfault : f = (s.refusedRead c).fault := by
    rcases hf with rfl | rfl
    · rfl
    · exact unmodelled_again s.fault
  rw [hw, hfault, State.refusedRead_pic]
  rfl

/-- A mask update inside an initialisation sequence: a refused read, and the updated draw as the next word. -/
theorem updateMask_insideInit {line : Byte} {s : State} (hline : line.toNat ≤ 15)
    (hop : ¬Operating (lineChip line) s) (u : Byte → Nat → Byte) :
    updateMask u line s =
      ((s.refusedRead (lineChip line)).trace
        (wrote8 (dataPort (lineChip line)) (u (Config.freeByte s.draws) (lineIndex line)))).setPic (lineChip line)
        (afterInitWord (lineChip line) (u (Config.freeByte s.draws) (lineIndex line)) (s.pic (lineChip line))) := by
  simp only [updateMask, lineTarget_good hline, portRead8_dataPort_insideInit hop, portWrite8_refusedRead hop]

/-- The refused read's record and the write's, as one list. -/
theorem State.refusedRead_trace (c : Chip) (r : PortRecord) (s : State) :
    (s.refusedRead c).trace r = { s with fault := s.fault ||| 0x20, draws := s.draws + 1, portTrace :=
      s.portTrace ++ [read8 (dataPort c) (Config.freeByte s.draws), r] } := by
  simp only [State.refusedRead, State.trace, List.append_assoc, List.singleton_append]

/-- Settles O27: `updateMask_insideInit` at each of the two updates. -/
theorem maskUpdateInsideInit : Obligations.MaskUpdateInsideInit := by
  rintro s line _ _ hacc hline rfl hop rfl
  simp only [exec_accepts hacc, opOf, updateMask_insideInit hline hop, State.refusedRead_trace]
  exact ⟨rfl, rfl⟩

end Sys2Proof.Machine
end

section
/-! PROOF. SEND_EOI and the two diagnostic reads (41_pic_controller.md R123, R124, R125): the whole next state of a
command written to a controller, of a read of its command port, and of the operations made of them, whether a
controller is operating or inside an initialisation sequence. -/

namespace Sys2Proof.Machine

/-! ## A command written (R170) -/

/-- The two answers to a command byte as one record update: an operating controller's registers become `q`, one
inside an initialisation sequence keeps them and sets `PIC_UNMODELLED`. -/
theorem commandAnswer_eq (c : Chip) (r : PortRecord) (q : Pic) (s : State) :
    (if Operating c s then (s.trace r).setPic c q else (s.trace r).raise .picUnmodelled) =
      ({ s with fault := if Operating c s then s.fault else s.fault ||| 0x20,
                portTrace := s.portTrace ++ [r] }).setPic c (if Operating c s then q else s.pic c) := by
  split <;> cases c <;> rfl

/-- `FAULT` after two accesses, the later one to a controller for which `P` says that it is operating. -/
theorem unmodelled_twice (P Q : Prop) [Decidable P] [Decidable Q] (f : Byte) :
    (if P then (if Q then f else f ||| 0x20) else (if Q then f else f ||| 0x20) ||| 0x20) =
      if P ∧ Q then f else f ||| 0x20 := by
  by_cases hP : P
  · simp only [hP, if_true, true_and]
  · simp only [hP, if_false, false_and]
    split
    · rfl
    · exact unmodelled_again f

/-! ## SEND_EOI (R123) -/

/-- The first controller's acknowledgment. -/
theorem portWrite8_eoi_master (s : State) :
    portWrite8 pic1Cmd ocw2Eoi s = { s with
      picM := if Operating .master s then acknowledged s.picM else s.picM,
      fault := if Operating .master s then s.fault else s.fault ||| 0x20,
      portTrace := s.portTrace ++ [wrote8 pic1Cmd ocw2Eoi] } :=
  (portWrite8_eoi .master s).trans (commandAnswer_eq .master _ _ s)

/-- The second controller's acknowledgment. -/
theorem portWrite8_eoi_slave (s : State) :
    portWrite8 pic2Cmd ocw2Eoi s = { s with
      picS := if Operating .slave s then acknowledged s.picS else s.picS,
      fault := if Operating .slave s then s.fault else s.fault ||| 0x20,
      portTrace := s.portTrace ++ [wrote8 pic2Cmd ocw2Eoi] } :=
  (portWrite8_eoi .slave s).trans (commandAnswer_eq .slave _ _ s)

theorem sendEoi_master {line : Byte} (h : line.toNat < 8) (s : State) :
    sendEoi line s = portWrite8 pic1Cmd ocw2Eoi s := by
  have hc : lineChip line = .master := if_pos h
  simp only [sendEoi, lineTarget_good (show line.toNat ≤ 15 by omega), hc, portWrites_cons, portWrites_nil]

theorem sendEoi_slave {line : Byte} (h : 8 ≤ line.toNat) (hline : line.toNat ≤ 15) (s : State) :
    sendEoi line s = portWrite8 pic1Cmd ocw2Eoi (portWrite8 pic2Cmd ocw2Eoi s) := by
  have hc : lineChip line = .slave := if_neg (Nat.not_lt.mpr h)
  simp only [sendEoi, lineTarget_good hline, hc, portWrites_cons, portWrites_nil]

/-- Settles O29: one acknowledgment for the lines of the first controller, the second's and then the first's for
the others. -/
theorem sendEoiEveryLine : Obligations.SendEoiEveryLine := by
  intro s line hacc hline
  rw [exec_accepts hacc, opOf]
  refine ⟨fun h => ?low, fun h => ?high⟩
  case low =>
    rw [sendEoi_master h, portWrite8_eoi_master]
    rfl
  case high =>
    rw [sendEoi_slave h hline, portWrite8_eoi_slave, portWrite8_eoi_master]
    simp only [unmodelled_twice, List.append_assoc, List.singleton_append]
    rfl

/-! ## The selects (R124, R125) -/

/-- The byte `b` is the select of the register `r` (R170). -/
abbrev Selects (b : Byte) (r : RegSel) : Prop := (b = ocw3ReadIrr ∧ r = .irr) ∨ (b = ocw3ReadIsr ∧ r = .isr)

theorem Selects.irr : Selects ocw3ReadIrr .irr := .inl ⟨rfl, rfl⟩

theorem Selects.isr : Selects ocw3ReadIsr .isr := .inr ⟨rfl, rfl⟩

/-- The registers a written select `r` leaves: an operating controller takes it, one inside an initialisation
sequence keeps its registers (R170). -/
def Pic.select (r : RegSel) (p : Pic) : Pic := if p.init = .operating then { p with rsel := r } else p

@[simp] theorem Pic.select_init (r : RegSel) (p : Pic) : (p.select r).init = p.init := by
  unfold Pic.select; split <;> rfl

theorem Pic.select_of_operating {p : Pic} (h : p.init = .operating) (r : RegSel) : p.select r = { p with rsel := r } :=
  if_pos h

@[simp] theorem Pic.select_irr (r : RegSel) (p : Pic) : (p.select r).irr = p.irr := by
  unfold Pic.select; split <;> rfl

@[simp] theorem Pic.select_isr (r : RegSel) (p : Pic) : (p.select r).isr = p.isr := by
  unfold Pic.select; split <;> rfl

@[simp] theorem Pic.select_requests (r : RegSel) (p : Pic) (pending : Bool) (i : Nat) :
    (p.select r).requests pending i = p.requests pending i := by
  unfold Pic.select; split <;> rfl

/-- The state after the select byte `b`, naming the register `r`, is written to both controllers. -/
def selectBoth (b : Byte) (r : RegSel) (s : State) : State :=
  { s with picM := s.picM.select r, picS := s.picS.select r,
           fault := if Operating .slave s ∧ Operating .master s then s.fault else s.fault ||| 0x20,
           portTrace := s.portTrace ++ [wrote8 pic1Cmd b, wrote8 pic2Cmd b] }

section
variable {b : Byte} {r : RegSel}

@[simp] theorem selectBoth_pic (c : Chip) (s : State) : (selectBoth b r s).pic c = (s.pic c).select r := by
  cases c <;> rfl

theorem operating_selectBoth (c : Chip) (s : State) : Operating c (selectBoth b r s) ↔ Operating c s := by
  rw [Operating, selectBoth_pic, Pic.select_init]

/-- A select changes no request: requests do not read it (R183). -/
theorem selectBoth_slaveInt (s : State) : (selectBoth b r s).slaveInt = s.slaveInt := by
  have : (selectBoth b r s).slaveReq = s.slaveReq := by
    funext i
    simp only [State.slaveReq, selectBoth, Pic.select_requests, Pic.select_irr]
  rw [State.slaveInt, this]
  rfl

/-- A select changes no register it lets HOST read. -/
theorem selectBoth_selectedByte (c : Chip) (q : RegSel) (s : State) :
    selectedByte c q (selectBoth b r s) = selectedByte c q s := by
  cases c <;> cases q <;>
    simp only [selectedByte, selectBoth_slaveInt, selectBoth_pic, Pic.select_isr] <;>
    simp only [selectBoth, Pic.select_irr]

variable (hb : Selects b r)
include hb

theorem portWrite8_select_master (s : State) :
    portWrite8 pic1Cmd b s = { s with
      picM := s.picM.select r,
      fault := if Operating .master s then s.fault else s.fault ||| 0x20,
      portTrace := s.portTrace ++ [wrote8 pic1Cmd b] } :=
  (portWrite8_select .master hb s).trans (commandAnswer_eq .master _ _ s)

theorem portWrite8_select_slave (s : State) :
    portWrite8 pic2Cmd b s = { s with
      picS := s.picS.select r,
      fault := if Operating .slave s then s.fault else s.fault ||| 0x20,
      portTrace := s.portTrace ++ [wrote8 pic2Cmd b] } :=
  (portWrite8_select .slave hb s).trans (commandAnswer_eq .slave _ _ s)

theorem portWrites_select (s : State) : portWrites [(pic1Cmd, b), (pic2Cmd, b)] s = selectBoth b r s := by
  rw [portWrites_cons, portWrites_cons, portWrites_nil, portWrite8_select_master hb, portWrite8_select_slave hb]
  simp only [unmodelled_twice, List.append_assoc, List.singleton_append]
  rfl

end

/-- A selected controller that operates has `r` selected. -/
theorem rsel_selectBoth {b : Byte} {r : RegSel} {c : Chip} {s : State} (h : Operating c (selectBoth b r s)) :
    ((selectBoth b r s).pic c).rsel = r := by
  rw [operating_selectBoth] at h
  rw [selectBoth_pic, Pic.select, if_pos h]

/-! ## A command port read (R171) -/

/-- The state a read of controller `c`'s command port leaves when it answers `v`. -/
def afterCmdRead (c : Chip) (v : Byte) (s : State) : State :=
  { s with fault := if Operating c s then s.fault else s.fault ||| 0x20,
           draws := if Operating c s then s.draws else s.draws + 1,
           portTrace := s.portTrace ++ [read8 (cmdPort c) v] }

/-- The answer is the selected register `r`, or a draw of a controller inside an initialisation sequence. -/
theorem portRead8_cmdPort {c : Chip} {r : RegSel} {s : State} {v : Byte}
    (hr : Operating c s → (s.pic c).rsel = r)
    (hv : v = if Operating c s then selectedByte c r s else Config.freeByte s.draws) :
    portRead8 (cmdPort c) s = (v, afterCmdRead c v s) := by
  subst hv
  unfold afterCmdRead
  by_cases h : Operating c s
  · simp only [portRead8_operating h, hr h, if_pos h]
    rfl
  · simp only [portRead8_insideInit h (.inl rfl), if_neg h]

@[simp] theorem afterCmdRead_pic (c d : Chip) (v : Byte) (s : State) : (afterCmdRead c v s).pic d = s.pic d := by
  cases d <;> rfl

theorem operating_afterCmdRead (c d : Chip) (v : Byte) (s : State) :
    Operating d (afterCmdRead c v s) ↔ Operating d s := by
  rw [Operating, afterCmdRead_pic]

theorem selectedByte_afterCmdRead (c d : Chip) (v : Byte) (r : RegSel) (s : State) :
    selectedByte d r (afterCmdRead c v s) = selectedByte d r s := by
  cases d <;> cases r <;> rfl

/-! ## The two diagnostic reads -/

section
variable {b : Byte} {r : RegSel} {s : State} {n : Nat} {vM vS : Byte}
  (hn : n = if Operating .master s then s.draws else s.draws + 1)
include hn

/-- The count of draws after the first controller's read. -/
theorem afterCmdRead_selectBoth_draws : (afterCmdRead .master vM (selectBoth b r s)).draws = n := by
  simp only [afterCmdRead, operating_selectBoth]
  exact hn.symm

/-- Both selects and both reads as one record update. -/
theorem afterCmdReads_selectBoth :
    afterCmdRead .slave vS (afterCmdRead .master vM (selectBoth b r s)) = { s with
      picM := s.picM.select r, picS := s.picS.select r,
      fault := if Operating .master s ∧ Operating .slave s then s.fault else s.fault ||| 0x20,
      draws := if Operating .slave s then n else n + 1,
      portTrace := s.portTrace ++
        [wrote8 pic1Cmd b, wrote8 pic2Cmd b, read8 pic1Cmd vM, read8 pic2Cmd vS] } := by
  have hdraws := afterCmdRead_selectBoth_draws (b := b) (r := r) (vM := vM) hn
  rw [afterCmdRead]
  simp only [operating_afterCmdRead, operating_selectBoth, hdraws]
  simp only [afterCmdRead, operating_selectBoth]
  have once : (Operating .slave s ∧ Operating .master s ∧ Operating .slave s ∧ Operating .master s) ↔
      (Operating .master s ∧ Operating .slave s) := by tauto
  simp only [selectBoth, unmodelled_twice, once, List.append_assoc, List.cons_append, List.nil_append]
  rfl

/-- The whole next state of a diagnostic read, of every mix of controllers: `n` is the count of draws after the first
controller's read, `vM` and `vS` are the two controllers' answers. -/
theorem readPicRegisters_eq (hb : Selects b r)
    (hM : vM = if Operating .master s then selectedByte .master r s else Config.freeByte s.draws)
    (hS : vS = if Operating .slave s then selectedByte .slave r s else Config.freeByte n) :
    readPicRegisters b s = { s with
      picM := s.picM.select r, picS := s.picS.select r,
      fault := if Operating .master s ∧ Operating .slave s then s.fault else s.fault ||| 0x20,
      draws := if Operating .slave s then n else n + 1,
      result := vS ++ vM, resultWritten := true,
      portTrace := s.portTrace ++
        [wrote8 pic1Cmd b, wrote8 pic2Cmd b, read8 pic1Cmd vM, read8 pic2Cmd vS] } := by
  have readM : portRead8 pic1Cmd (selectBoth b r s) = (vM, afterCmdRead .master vM (selectBoth b r s)) := by
    refine portRead8_cmdPort (c := .master) rsel_selectBoth ?_
    simp only [operating_selectBoth, selectBoth_selectedByte]
    exact hM
  have readS : portRead8 pic2Cmd (afterCmdRead .master vM (selectBoth b r s)) =
      (vS, afterCmdRead .slave vS (afterCmdRead .master vM (selectBoth b r s))) := by
    refine portRead8_cmdPort (c := .slave) (r := r) (fun h => ?_) ?_
    · rw [afterCmdRead_pic]
      exact rsel_selectBoth ((operating_afterCmdRead _ _ _ _).mp h)
    · simp only [operating_afterCmdRead, operating_selectBoth, selectedByte_afterCmdRead, selectBoth_selectedByte,
        afterCmdRead_selectBoth_draws hn]
      exact hS
  simp only [readPicRegisters, portWrites_select hb, readM, readS, afterCmdReads_selectBoth hn]
  rfl

end

/-- A diagnostic read of operating controllers: no draw and no refusal. -/
theorem readPicRegisters_operating {b : Byte} {r : RegSel} {s : State}
    (hb : Selects b r)
    (hM : Operating .master s) (hS : Operating .slave s) :
    readPicRegisters b s = { s with
      picM := { s.picM with rsel := r }, picS := { s.picS with rsel := r },
      result := selectedByte .slave r s ++ selectedByte .master r s, resultWritten := true,
      portTrace := s.portTrace ++ [wrote8 pic1Cmd b, wrote8 pic2Cmd b,
        read8 pic1Cmd (selectedByte .master r s), read8 pic2Cmd (selectedByte .slave r s)] } := by
  rw [readPicRegisters_eq (if_pos hM).symm hb (if_pos hM).symm (if_pos hS).symm,
    Pic.select_of_operating (p := s.picM) hM, Pic.select_of_operating (p := s.picS) hS, if_pos ⟨hM, hS⟩, if_pos hS]

/-- Settles O30: `readPicRegisters_operating` at each select. -/
theorem diagnosticReads : Obligations.DiagnosticReads := by
  rintro s _ hacc hM hS rfl
  rw [exec_accepts hacc, exec_accepts hacc, opOf, opOf, readPicRegisters_operating .irr hM hS,
    readPicRegisters_operating .isr hM hS]
  exact ⟨rfl, rfl⟩

/-- Settles O31: `readPicRegisters_eq` with some controller refusing, its answers those of the premises. -/
theorem diagnosticReadsInsideInit : Obligations.DiagnosticReadsInsideInit := by
  rintro s n _ _ _ _ _ _ hacc hnot hn rfl rfl rfl rfl rfl rfl
  rw [exec_accepts hacc, exec_accepts hacc, opOf, opOf,
    readPicRegisters_eq hn .irr rfl rfl, readPicRegisters_eq hn .isr rfl rfl, if_neg hnot]
  exact ⟨rfl, rfl⟩

end Sys2Proof.Machine
end

section
/-! PROOF. REMAP (41_pic_controller.md R120): the byte a controller takes at each position of the initialisation
sequence, the ten writes two by two, and the diagnostic reads right after. -/

namespace Sys2Proof.Machine

/-! ## The bytes of the sequence (R170, R172) -/

/-- A controller `c` that holds `p` takes the byte `b` at a port, without a refusal, and then holds `q`. -/
def Takes (c : Chip) (port : Half) (b : Byte) (p q : Pic) : Prop :=
  ∀ s : State, s.pic c = p → portWrite8 port b s = (s.trace (wrote8 port b)).setPic c q

theorem Takes.startInit (c : Chip) (p : Pic) : Takes c (cmdPort c) icw1Init p p.startInit := by
  rintro s rfl
  rw [portWrite8_cmdPort, picCmdWrite, if_pos rfl, State.trace_pic]

section
variable {c : Chip} {p : Pic}

theorem Takes.offset (h : p.init = .offset) (b : Byte) :
    Takes c (dataPort c) b p { p with off := b, init := .cascade } := by
  rintro s rfl
  rw [portWrite8_dataPort, picDataWrite, State.trace_pic, h]

theorem Takes.wiring (h : p.init = .cascade) : Takes c (dataPort c) (cascadeWord c) p { p with init := .mode } := by
  rintro s rfl
  simp only [portWrite8_dataPort, picDataWrite, State.trace_pic, h, if_true]

theorem Takes.mode (h : p.init = .mode) : Takes c (dataPort c) icw4Mode8086 p { p with init := .operating } := by
  rintro s rfl
  simp only [portWrite8_dataPort, picDataWrite, State.trace_pic, h, if_true]

theorem Takes.mask (h : p.init = .operating) (b : Byte) : Takes c (dataPort c) b p { p with imr := b } := by
  rintro s rfl
  exact portWrite8_dataPort_operating h b

end

/-! ## The ten writes, two by two -/

/-- The controllers' registers and the trace replaced: what REMAP's writes reach. -/
def State.withControllers (p q : Pic) (tr : List PortRecord) (s : State) : State :=
  { s with picM := p, picS := q, portTrace := tr }

/-- One byte to each controller, neither refused, at the head of a list of writes. -/
theorem portWrites_both {p p' q q' : Pic} {a d : Half} {x y : Byte} (hM : Takes .master a x p p')
    (hS : Takes .slave d y q q') (ws : List (Half × Byte)) (tr : List PortRecord) (s : State) :
    portWrites ((a, x) :: (d, y) :: ws) (s.withControllers p q tr) =
      portWrites ws (s.withControllers p' q' (tr ++ [wrote8 a x, wrote8 d y])) := by
  rw [portWrites_cons, portWrites_cons, hM _ rfl, hS _ rfl]
  congr 1
  simp only [State.withControllers, State.trace, State.setPic, List.append_assoc, List.singleton_append]

theorem remapWrites_eq (o1 o2 : Byte) : remapWrites o1 o2 =
    [(cmdPort .master, icw1Init), (cmdPort .slave, icw1Init), (dataPort .master, o1), (dataPort .slave, o2),
     (dataPort .master, cascadeWord .master), (dataPort .slave, cascadeWord .slave),
     (dataPort .master, icw4Mode8086), (dataPort .slave, icw4Mode8086),
     (dataPort .master, 0x00), (dataPort .slave, 0x00)] := rfl

/-- The registers REMAP leaves in a controller, of whatever it held before. -/
def remapped (offset : Byte) : Pic :=
  { imr := 0, irr := 0, isr := 0, off := offset, init := .operating, rsel := .irr }

/-- The first pair starts both sequences whatever the controllers held, each pair moves both one position on, and
the last writes the masks. -/
theorem remap_eq (o1 o2 : Byte) (s : State) :
    remap o1 o2 s = s.withControllers (remapped o1) (remapped o2)
      (s.portTrace ++ (remapWrites o1 o2).map fun w => wrote8 w.1 w.2) := by
  rw [remap, remapWrites_eq]
  change portWrites _ (s.withControllers s.picM s.picS s.portTrace) = _
  rw [portWrites_both (.startInit .master _) (.startInit .slave _),
    portWrites_both (.offset rfl o1) (.offset rfl o2), portWrites_both (.wiring rfl) (.wiring rfl),
    portWrites_both (.mode rfl) (.mode rfl), portWrites_both (.mask rfl 0) (.mask rfl 0), portWrites_nil]
  simp only [List.append_assoc, List.cons_append, List.nil_append]
  rfl

/-- Settles O23: `remap_eq`, its ten records written out. -/
theorem remapFromEveryState : Obligations.RemapFromEveryState := by
  intro s o1 o2 hacc
  rw [exec_accepts hacc, opOf, remap_eq]
  rfl

/-! ## The diagnostic reads right after (R124, R125) -/

/-- Without a request the second controller's output is low (R183). -/
theorem slaveInt_of_irr_eq_zero {s : State} (h : s.picS.irr = 0) : s.slaveInt = false := by
  rw [Bool.eq_false_iff, State.slaveInt, Ne, lowestOf_isSome_iff]
  rintro ⟨i, -, hi⟩
  obtain ⟨-, hpending, -⟩ := (Pic.requests_iff _ _ _).mp hi
  simp [h] at hpending

/-- Both diagnostic reads answer 0 of operating controllers with nothing requested and nothing in service: the first
read changes the selects alone. -/
theorem diagnostics_zero {s : State} (hacc : Accepts s) (hopM : Operating .master s) (hopS : Operating .slave s)
    (hirrM : s.picM.irr = 0) (hirrS : s.picS.irr = 0) (hisrM : s.picM.isr = 0) (hisrS : s.picS.isr = 0) :
    ∃ u v, exec .readRequestRegister s = .next u ∧ u.result = 0 ∧
      exec .readServiceRegister u = .next v ∧ v.result = 0 := by
  refine ⟨_, _, (diagnosticReads s _ hacc hopM hopS rfl).1, ?request,
    (diagnosticReads _ _ ?accepts ?master ?slave rfl).2, ?service⟩
  case accepts => exact hacc
  case master => exact hopM
  case slave => exact hopS
  case request =>
    simp only [hirrM, hirrS, slaveInt_of_irr_eq_zero hirrS]
    rfl
  case service =>
    simp only [hisrM, hisrS]
    rfl

/-- Settles O24: REMAP leaves both controllers operating, with request and service registers 0. -/
theorem diagnosticsZeroAfterRemap : Obligations.DiagnosticsZeroAfterRemap := by
  intro s o1 o2 hacc
  obtain ⟨u, v, hreads⟩ := diagnostics_zero
    (s := s.withControllers (remapped o1) (remapped o2)
      (s.portTrace ++ (remapWrites o1 o2).map fun w => wrote8 w.1 w.2))
    hacc rfl rfl rfl rfl rfl rfl
  exact ⟨_, u, v, by rw [exec_accepts hacc, opOf, remap_eq], hreads⟩

end Sys2Proof.Machine
end

section
/-! PROOF. The table builder's two commands (42_descriptor_table.md R140 to R143): a gate written whole and read
back, the table INIT builds, and what each command refuses. -/

namespace Sys2Proof.Machine

/-! ## One gate (R140, R142) -/

/-- A vector up to 255 writes the packed gate. -/
theorem exec_setDescriptor {s : State} {v : Word} (hacc : Accepts s) (hv : v.toNat ≤ 255) (a : Word) (x : Byte) :
    exec (.setDescriptor v a x) s = .next (s.writeGate v.toNat (packGate a x)) := by
  rw [exec_accepts hacc, opOf, setDescriptor_good hv]

theorem State.gate_writeGate_same (v : Nat) (g : Gate) (s : State) : (s.writeGate v g).gate v = g := by
  rw [State.gate_writeGate, if_pos rfl]

/-- A gate is the eight bytes from its address up (R21). -/
theorem inGate_iff (c : Config) (v a : Nat) : InGate c v a ↔ gateAddr c v ≤ a ∧ a < gateAddr c v + 8 := by
  simp only [InGate, gateAddr, gateBytes, Nat.mul_succ, Nat.add_assoc]

/-- A gate write reaches the bytes of its own gate alone. -/
theorem State.read_writeGate_other {s : State} {v a : Nat} (g : Gate) (ha : ¬InGate s.cfg v a) :
    (s.writeGate v g).mem.read a = s.mem.read a := by
  rw [State.writeGate_mem, Memory.read_writeGate, if_neg (mt (inGate_iff _ _ _).mpr ha)]

/-- Settles O34: the command is `State.writeGate` of the packed gate, read gate by gate, bit by bit and byte by
byte. -/
theorem setDescriptorWritesOneGate : Obligations.SetDescriptorWritesOneGate := by
  intro s vector handler attributes hacc hv
  refine ⟨_, exec_setDescriptor hacc hv handler attributes, rfl, ?written, ?others, ?vecSet, ?bytes⟩
  case written => exact State.gate_writeGate_same _ _ s
  case others =>
    intro v hne
    rw [State.gate_writeGate, if_neg hne]
  case vecSet => exact fun v h => State.vecSetAt_writeGate _ v _ s h
  case bytes => exact fun a ha => State.read_writeGate_other _ ha

/-- Settles O35: the gate read back is the packed one, and its fields are those packed. -/
theorem gateReadBack : Obligations.GateReadBack := by
  intro s vector handler attributes hacc hv
  refine ⟨_, exec_setDescriptor hacc hv handler attributes, ?_⟩
  rw [State.gate_writeGate_same]
  exact ⟨gateHandler_packGate handler attributes, gateSelectorOf_packGate handler attributes,
    gateZeroOf_packGate handler attributes, gateAttrOf_packGate handler attributes⟩

/-- Settles O37: a vector above 255 raises `BAD_VECTOR`, bit 0 of `FAULT`, and writes no gate. -/
theorem badVectorRefused : Obligations.BadVectorRefused := by
  intro s vector handler attributes hacc hv
  rw [exec_accepts hacc, opOf, setDescriptor_bad hv]
  rfl

/-! ## The whole table (R141, R143) -/

/-- The first INIT: gates 0 to 47, then the table register, then `IF`. -/
theorem initTable_first {s : State} (h : s.idtr.loaded = false) :
    initTable s = ((populate 48 s).loadIdtr).setIf true := by
  rw [initTable, if_neg (Bool.eq_false_iff.mp h), populatedCount]

theorem initTable_again {s : State} (h : s.idtr.loaded = true) : initTable s = s.raise .reinit := by
  rw [initTable, if_pos h]

/-- What loading the register and enabling delivery leave of the state after `populate n`. It is stated for every `n`,
because the kernel would compute `populate 48`. -/
theorem populate_loadIdtr_setIf {n : Nat} (hn : n ≤ 256) (s : State) :
    ∃ t, t = (populate n s).loadIdtr.setIf true ∧
      t = { s with mem := t.mem, vecSet := t.vecSet, ifFlag := true,
                   idtr := { loaded := true, base := s.cfg.idtBase, limit := 0x07FF } } ∧
      (∀ v < 256, t.gate v = if v < n then packGate (trampAt s.cfg v) 0x8E else s.gate v) ∧
      (∀ v < 256, t.vecSetAt v = (decide (v < n) || s.vecSetAt v)) ∧
      ∀ a, ¬(gateAddr s.cfg 0 ≤ a ∧ a < gateAddr s.cfg n) → t.mem.read a = s.mem.read a :=
  ⟨_, rfl, congrArg (fun u : State => u.loadIdtr.setIf true) (populate_frame hn s),
    fun v _ => populate_gate hn s v, fun _ hv => populate_vecSetAt hn s hv, fun _ ha => populate_read hn s ha⟩

/-- Settles O38: the first INIT runs `populate 48`, then loads the register and enables delivery. -/
theorem initBuildsTable : Obligations.InitBuildsTable := by
  intro s hacc hloaded
  obtain ⟨t, ht, htable⟩ := populate_loadIdtr_setIf (n := 48) (by decide) s
  refine ⟨t, ?_, htable⟩
  rw [exec_accepts hacc, opOf, initTable_first hloaded, ht]

/-- Settles O39: with the table register loaded INIT raises `REINIT`, bit 3 of `FAULT`, and builds nothing. -/
theorem secondInitRefused : Obligations.SecondInitRefused := by
  intro s hacc hloaded
  rw [exec_accepts hacc, opOf, initTable_again hloaded]
  rfl

end Sys2Proof.Machine
end

section
/-! PROOF. The dispatcher (43_dispatcher.md R150 to R154): the class of every vector, and the whole next state of each
class's action. -/

namespace Sys2Proof.Machine

/-! ## The classes (R150) -/

theorem vectorLine_eq {v : Word} (h32 : 32 ≤ v.toNat) (h47 : v.toNat ≤ 47) :
    vectorLine v = BitVec.ofNat 8 (v.toNat - 32) := by
  rw [← vectorLine_toNat h32 h47, BitVec.ofNat_toNat, BitVec.setWidth_eq]

theorem classify_keyboardIrq {v : Word} (h : v.toNat = 33) : classify v = .keyboardIrq :=
  if_pos (BitVec.eq_of_toNat_eq h)

theorem classify_otherIrq {v : Word} (h32 : 32 ≤ v.toNat) (h47 : v.toNat ≤ 47) (h33 : v.toNat ≠ 33) :
    classify v = .otherIrq (BitVec.ofNat 8 (v.toNat - 32)) := by
  have hkbd : v ≠ kbdVector := fun h => h33 (congrArg BitVec.toNat h)
  have hrange : irqBase ≤ v ∧ v ≤ irqLast := ⟨BitVec.le_def.mpr h32, BitVec.le_def.mpr h47⟩
  rw [classify, if_neg hkbd, if_pos hrange, vectorLine_eq h32 h47]

theorem classify_cpuFault {v : Word} (h : v.toNat < 32 ∨ 47 < v.toNat) : classify v = .cpuFault v := by
  have hkbd : v ≠ kbdVector := by
    rintro rfl
    exact absurd h (by decide)
  have hrange : ¬(irqBase ≤ v ∧ v ≤ irqLast) := fun ⟨hbase, hlast⟩ =>
    h.elim (Nat.not_lt.mpr (BitVec.le_def.mp hbase)) (Nat.not_lt.mpr (BitVec.le_def.mp hlast))
  rw [classify, if_neg hkbd, if_neg hrange]

/-! ## The action of each class (R151) -/

theorem dispatchVector_keyboardIrq {v : Word} (h : v.toNat = 33) (e : Word) (s : State) :
    dispatchVector e v s = sendEoi kbdLine (keyboardDecode s) := by
  rw [dispatchVector, classify_keyboardIrq h]

theorem dispatchVector_otherIrq {v : Word} (h32 : 32 ≤ v.toNat) (h47 : v.toNat ≤ 47) (h33 : v.toNat ≠ 33)
    (e : Word) (s : State) : dispatchVector e v s = sendEoi (BitVec.ofNat 8 (v.toNat - 32)) s := by
  rw [dispatchVector, classify_otherIrq h32 h47 h33]

theorem dispatchVector_cpuFault {v : Word} (h : v.toNat < 32 ∨ 47 < v.toNat) (e : Word) (s : State) :
    dispatchVector e v s = fatal e v s := by
  rw [dispatchVector, classify_cpuFault h]

/-- Settles O40: the class of each range of vectors, and the action DISPATCH takes on it. -/
theorem classifyEveryVector : Obligations.ClassifyEveryVector := fun _ e s =>
  ⟨fun h => ⟨classify_keyboardIrq h, dispatchVector_keyboardIrq h e s⟩,
    fun h32 h47 h33 => ⟨classify_otherIrq h32 h47 h33, dispatchVector_otherIrq h32 h47 h33 e s⟩,
    fun h => ⟨classify_cpuFault h, dispatchVector_cpuFault h e s⟩⟩

/-! ## The keyboard (R154 (a)) -/

/-- Settles O41: the decoder's next state, and the first controller's acknowledgment from there. -/
theorem dispatchKeyboard : Obligations.DispatchKeyboard := by
  intro s e hacc
  have hline : kbdLine.toNat < 8 := by decide
  rw [exec_accepts hacc, opOf, dispatchVector_keyboardIrq rfl, sendEoi_master hline, portWrite8_eoi_master,
    keyboardDecode_eq, List.append_assoc, List.singleton_append]
  rfl

/-! ## The other lines (R154 (b), (c)) -/

/-- The writes of an acknowledgment, in their order (R123). -/
theorem sendEoi_portTrace {line : Byte} (h : line.toNat ≤ 15) (s : State) :
    (sendEoi line s).portTrace = s.portTrace ++
      if line.toNat < 8 then [wrote8 0x20 0x20] else [wrote8 0xA0 0x20, wrote8 0x20 0x20] := by
  by_cases hlow : line.toNat < 8
  · rw [if_pos hlow, sendEoi_master hlow, portWrite8_eoi_master]
    rfl
  · rw [if_neg hlow, sendEoi_slave (Nat.not_lt.mp hlow) h, portWrite8_eoi_master, portWrite8_eoi_slave]
    exact List.append_assoc ..

/-- Settles O42: DISPATCH and SEND_EOI run one and the same operation, whose frame is that of port writes. -/
theorem dispatchOtherLine : Obligations.DispatchOtherLine := by
  intro s e v hacc h32 h47 h33
  have hline : (BitVec.ofNat 8 (v.toNat - 32)).toNat = v.toNat - 32 := by
    rw [← vectorLine_eq h32 h47, vectorLine_toNat h32 h47]
  have h15 : (BitVec.ofNat 8 (v.toNat - 32)).toNat ≤ 15 := by omega
  have h8 : v.toNat - 32 < 8 ↔ v.toNat < 40 := by omega
  rw [exec_accepts hacc, exec_accepts hacc, opOf, opOf, dispatchVector_otherIrq h32 h47 h33]
  refine ⟨rfl, _, rfl, (PortSteps.sendEoi h15 s).only, ?trace⟩
  case trace => simp only [sendEoi_portTrace h15, hline, h8]

/-! ## The fatal path (R152, R154 (d)) -/

/-- The guard of the name, over the vector as a number. -/
theorem diagName_eq (v : Word) : diagName v = if v.toNat < 32 then .index (v.setWidth 5) else .unknown :=
  if_congr (BitVec.le_def.trans Nat.lt_succ_iff.symm) rfl rfl

/-- Only the page fault's record has an address. -/
theorem pageFaultAddr_eq (v a : Word) :
    (if v = pageFaultVector then some a else none) = if v.toNat = 14 then some a else none :=
  if_congr BitVec.toNat_eq rfl rfl

/-- Settles O43: the fatal path, its record's two guards read over the vector as a number. -/
theorem dispatchFatal : Obligations.DispatchFatal := by
  intro s e v hacc hv
  rw [exec_accepts hacc, opOf, dispatchVector_cpuFault hv, fatal, diagName_eq, pageFaultAddr_eq]
  rfl

end Sys2Proof.Machine
end

section
/-! PROOF. The keyboard decoder (44_keyboard_decoder.md R160 to R162): its whole next state, and the characters of the
codes the document fixes. -/

namespace Sys2Proof.Machine

/-- Settles O44: an accepting state runs `keyboardDecode`, whose whole next state is `keyboardDecode_eq`. -/
theorem keyboardDecodeEffect : Obligations.KeyboardDecodeEffect := by
  intro s hacc
  rw [exec_accepts hacc, opOf, keyboardDecode_eq]
  rfl

/-! ## Characters by code (R160, R162) -/

/-- After the first key, a read of port 0x60 answers the byte presented last (R174). -/
theorem keyboardByte_written {s : State} (h : s.kbdWritten = true) : keyboardByte s = s.kbdData := if_pos h

/-- A code with bit 7 set, a release or the prefix 0xE0, gives no character. -/
theorem decodedChars_release {b : Byte} (h : b.getLsbD 7 = true) (c : Config) : decodedChars c b = [] := if_pos h

/-- A make code whose table entry is 0 gives no character. -/
theorem decodedChars_unmapped {c : Config} {b : Byte} (hmake : b.getLsbD 7 = false)
    (hchar : keyChar c (b.setWidth 7) = 0) : decodedChars c b = [] := by
  rw [decodedChars, if_neg (Bool.eq_false_iff.mp hmake), if_pos hchar]

/-- A make code with a nonzero table entry gives that entry. -/
theorem decodedChars_mapped {c : Config} {b x : Byte} (hmake : b.getLsbD 7 = false)
    (hchar : keyChar c (b.setWidth 7) = x) (hx : x ≠ 0) : decodedChars c b = [x] := by
  rw [decodedChars, if_neg (Bool.eq_false_iff.mp hmake), hchar, if_neg hx]

/-- The character of a code is its row of `KBD_MAP` (R161): no index runs past the table. -/
theorem keyChar_eq_getElem (c : Config) (i : BitVec 7) : keyChar c i = c.kbdMap[i.toNat]'i.isLt := by
  rw [keyChar, Vector.getElem?_eq_getElem i.isLt, Option.getD_some]

/-- The key `A` (R162): 0x1E is a make code, and R8 fixes its entry. -/
theorem decodedChars_keyA {c : Config} (hc : configOk c) : decodedChars c 0x1E = [0x61] := by
  obtain ⟨-, -, -, hkeyA, -, -⟩ := hc
  exact decodedChars_mapped rfl ((keyChar_eq_getElem c 0x1E).trans hkeyA) (by decide)

/-- The documented codes without a character (R162): the release of `A` and the prefix have bit 7 set, and R8 fixes
the entry of Caps Lock as 0. -/
theorem decodedChars_silent {c : Config} (hc : configOk c) :
    ∀ b ∈ ([0x9E, 0xE0, 0x3A] : List Byte), decodedChars c b = [] := by
  obtain ⟨-, -, -, -, hcapsLock, -⟩ := hc
  have hrelease : decodedChars c 0x9E = [] := decodedChars_release rfl c
  have hprefix : decodedChars c 0xE0 = [] := decodedChars_release rfl c
  have hunmapped : decodedChars c 0x3A = [] :=
    decodedChars_unmapped rfl ((keyChar_eq_getElem c 0x3A).trans hcapsLock)
  rw [List.forall_mem_cons, List.forall_mem_cons, List.forall_mem_singleton]
  exact ⟨hrelease, hprefix, hunmapped⟩

/-- Settles O45: the decoder reads the key presented last and appends its characters. -/
theorem documentedKeys : Obligations.DocumentedKeys := by
  intro s hacc hcfg hkey
  refine ⟨_, keyboardDecodeEffect s hacc, ?keyA, ?silent⟩
  case keyA =>
    intro hdata
    rw [keyboardByte_written hkey, hdata, decodedChars_keyA hcfg]
  case silent =>
    intro hdata
    rw [keyboardByte_written hkey, decodedChars_silent hcfg _ hdata, List.append_nil]

end Sys2Proof.Machine
end

section
/-! PROOF. The controllers' ports, byte by byte (60_exceptions.md R170 to R173, 40_port_access.md R111): a read inside
an initialisation sequence, and a byte written to either port of a controller at every position. -/

namespace Sys2Proof.Machine

/-- Settles O17: `portRead8_insideInit`, and then `RESULT`. -/
theorem readByteInsideInit : Obligations.ReadByteInsideInit := by
  intro s c port hacc hop hport
  exact exec_readByte_of_portRead8 hacc (portRead8_insideInit hop hport)

theorem cascadeWord_eq (c : Chip) : cascadeWord c = if c = .master then 0x04 else 0x02 := by
  cases c <;> rfl

/-- Settles O19: one case for each position of the sequence. -/
theorem writeByteDataPort : Obligations.WriteByteDataPort := by
  rintro s _ c b hacc rfl
  rw [exec_accepts hacc, opOf, portWrite8_dataPort, picDataWrite, State.trace_pic]
  cases (s.pic c).init with
  | operating => rfl
  | offset => rfl
  | cascade => rw [← cascadeWord_eq c]; rfl
  | mode => rfl

/-- Settles O20: the model's own tests of the byte, in their order; the end-of-interrupt's lowest bit in arithmetic. -/
theorem writeByteCommandPort : Obligations.WriteByteCommandPort := by
  rintro s _ c b hacc rfl
  rw [exec_accepts hacc, opOf, portWrite8_cmdPort, picCmdWrite, State.trace_pic, endOfInterrupt_eq]
  rfl

end Sys2Proof.Machine
end

section
/-! PROOF. Requests (60_exceptions.md R180, R181, R183): how a line is latched, which inputs request, and when CPU and
INTA are enabled (R182, R184). -/

namespace Sys2Proof.Machine

/-! ## Latching (R180, R181) -/

/-- Settles O46: each agent's step on the state with the entry taken off, its latch as a record update. -/
theorem requestsLatched : Obligations.RequestsLatched := by
  intro s rest
  exact ⟨fun _ hs => step_cons hs, fun _ hs => step_cons hs⟩

/-! ## Requests of a controller (R183) -/

/-- An input in service stops itself and every lower-priority input of its controller. -/
theorem Pic.requests_of_inService {p : Pic} {i j : Nat} (hij : i ≤ j) (h : p.isr.getLsbD i = true) (pending : Bool) :
    p.requests pending j = false := by
  rw [Bool.eq_false_iff, Ne, Pic.requests_iff]
  rintro ⟨-, -, -, hnone⟩
  rw [hnone i hij] at h
  contradiction

theorem slaveReq_iff (s : State) (i : Nat) :
    s.slaveReq i = true ↔ s.picS.init = .operating ∧ s.picS.irr.getLsbD i = true ∧
      s.picS.imr.getLsbD i = false ∧ ∀ j ≤ i, s.picS.isr.getLsbD j = false :=
  Pic.requests_iff _ _ _

/-- An input of the first controller that is not the second's request output. -/
theorem masterReq_iff {l : Nat} (hl : l ≠ 2) (s : State) :
    s.masterReq l = true ↔ s.picM.init = .operating ∧ s.picM.irr.getLsbD l = true ∧
      s.picM.imr.getLsbD l = false ∧ ∀ j ≤ l, s.picM.isr.getLsbD j = false := by
  rw [State.masterReq, if_neg (show ¬l = cascadeLine from hl)]
  exact Pic.requests_iff _ _ _

theorem masterReq_cascade_iff (s : State) :
    s.masterReq 2 = true ↔ s.picM.init = .operating ∧ s.slaveInt = true ∧
      s.picM.imr.getLsbD 2 = false ∧ ∀ j ≤ 2, s.picM.isr.getLsbD j = false :=
  Pic.requests_iff _ _ _

theorem slaveInt_iff (s : State) : s.slaveInt = true ↔ ∃ i < 8, s.slaveReq i = true := lowestOf_isSome_iff _

theorem masterReq_of_inService {s : State} {i j : Nat} (hij : i ≤ j) (h : s.picM.isr.getLsbD i = true) :
    s.masterReq j = false :=
  Pic.requests_of_inService hij h _

/-- A line of the first controller is eligible exactly if its input requests. -/
theorem lineEligible_master {l : Nat} (hl : l < 8) (s : State) : lineEligible s l = s.masterReq l := if_pos hl

/-- A line of the second controller is eligible exactly if its input and the first's input 2 request. -/
theorem lineEligible_slave {l : Nat} (hl : 8 ≤ l) (s : State) :
    lineEligible s l = (s.masterReq 2 && s.slaveReq (l - 8)) :=
  if_neg (Nat.not_lt.mpr hl)

/-- Settles O33: the four conditions of a request at each controller, and what follows with one in service. -/
theorem inServiceBlocks : Obligations.InServiceBlocks := by
  refine ⟨fun s => ⟨fun i _ => slaveReq_iff s i, slaveInt_iff s, fun l _ hl => masterReq_iff hl s,
    masterReq_cascade_iff s, fun l hl => ⟨lineEligible_master hl s, ?slaveLine⟩⟩, fun s i j hij _ =>
    ⟨fun h => Pic.requests_of_inService hij h _, masterReq_of_inService hij, fun h l hl => ?behindCascade⟩⟩
  case slaveLine => rw [lineEligible_slave (Nat.le_add_right 8 l), Nat.add_sub_cancel_left]
  case behindCascade => rw [lineEligible_slave hl, masterReq_of_inService le_rfl h, Bool.false_and]

/-! ## When CPU and INTA are enabled (R182, R184) -/

theorem State.running_iff (s : State) : s.running = true ↔ Accepts s := by
  rw [State.running, Bool.and_eq_true, Bool.not_eq_true', Bool.not_eq_true']

theorem takeException_not_running {s : State} (h : s.running = false) (v : BitVec 5) (e fa : Word) :
    takeException v e fa s = .next s :=
  if_neg (Bool.eq_false_iff.mp h)

theorem acceptInterrupt_not_enabled {s : State} (h : s.running = false ∨ s.ifFlag = false) :
    acceptInterrupt s = .next s := by
  refine if_neg ?_
  rcases h with h | h <;> simp [h]

theorem lowestOf_eq_none_iff (p : Nat → Bool) : lowestOf p = none ↔ ∀ i < 8, p i = false := by
  simp [lowestOf]

theorem acceptLine_eq_none {s : State} (h : ∀ l < 8, s.masterReq l = false) : acceptLine s = none := by
  rw [acceptLine, (lowestOf_eq_none_iff _).mpr h]

theorem acceptInterrupt_of_none {s : State} (h : acceptLine s = none) : acceptInterrupt s = .next s := by
  rw [acceptInterrupt, h]
  exact ite_self _

/-- Settles O13: an agent that is not running, `IF` = 0, or no line to accept. -/
theorem disabledAgentsTakeNoStep : Obligations.DisabledAgentsTakeNoStep := by
  intro s
  refine ⟨fun hstop => ?stopped, fun hif => acceptInterrupt_not_enabled (.inr hif),
    fun hnone => acceptInterrupt_of_none (acceptLine_eq_none hnone)⟩
  case stopped =>
    have hrun : s.running = false := by
      rcases hstop with h | h <;> simp [State.running, h]
    exact ⟨takeException_not_running hrun, acceptInterrupt_not_enabled (.inl hrun)⟩

end Sys2Proof.Machine
end

section
/-! PROOF. Which line INTA accepts (60_exceptions.md R183, R184): the first controller's lowest requesting input, and
behind input 2 the second's, is the first eligible line of the priority order. -/

namespace Sys2Proof.Machine

/-- The priority order: the second controller's lines stand in the place of input 2 of the first. -/
theorem linesByPriority_eq :
    linesByPriority = [0, 1] ++ (List.range 8).map (8 + ·) ++ [3, 4, 5, 6, 7] := rfl

/-- Behind input 2 of the first controller a line of the second is eligible exactly if its input requests. -/
theorem find?_slaveLines (s : State) :
    ((List.range 8).map (8 + ·)).find? (lineEligible s) =
      if s.masterReq 2 = true then (lowestOf s.slaveReq).map (8 + ·) else none := by
  have hline : (lineEligible s ∘ (8 + ·)) = fun i => s.masterReq 2 && s.slaveReq i := by
    funext i
    rw [Function.comp_apply, lineEligible_slave (Nat.le_add_right 8 i), Nat.add_sub_cancel_left]
  rw [List.find?_map, hline]
  by_cases h2 : s.masterReq 2 = true
  · simp only [h2, Bool.true_and, if_true, lowestOf]
  · simp [h2]

/-- Input 2 requests only if some input of the second controller does. -/
theorem exists_slaveReq_of_masterReq {s : State} (h : s.masterReq 2 = true) : ∃ i, lowestOf s.slaveReq = some i := by
  obtain ⟨-, hint, -⟩ := (masterReq_cascade_iff s).mp h
  exact Option.isSome_iff_exists.mp hint

/-- Among lines of the first controller, those eligible are those that request. -/
theorem find?_masterLines {ls : List Nat} (h : ∀ l ∈ ls, l < 8) (s : State) :
    ls.find? (lineEligible s) = ls.find? s.masterReq :=
  List.find?_congr fun l hl => lineEligible_master (h l hl) s

/-- The first controller's lowest requesting input: one of 0 and 1, else input 2, else one of 3 to 7. -/
theorem lowestOf_masterReq (s : State) :
    lowestOf s.masterReq = ((([0, 1] : List Nat).find? s.masterReq).or
      (if s.masterReq 2 = true then some 2 else none)).or (([3, 4, 5, 6, 7] : List Nat).find? s.masterReq) := by
  have hrange : List.range 8 = [0, 1] ++ [2] ++ [3, 4, 5, 6, 7] := rfl
  rw [lowestOf, hrange, List.find?_append, List.find?_append, List.find?_singleton]

/-- The line INTA takes when `l` is the first controller's lowest requesting input: `l` itself, or behind input 2 the
second controller's lowest. -/
def lineBehind (s : State) (l : Nat) : Option Nat := if l = 2 then (lowestOf s.slaveReq).map (8 + ·) else some l

/-- A line found among lines without input 2 is taken itself. -/
theorem lineBehind_of_find? {ls : List Nat} {p : Nat → Bool} {l : Nat} (h2 : 2 ∉ ls) (hl : ls.find? p = some l)
    (s : State) : lineBehind s l = some l := by
  refine if_neg ?_
  rintro rfl
  exact h2 (List.mem_of_find?_eq_some hl)

/-- The first eligible line, from the lowest requesting inputs of the two controllers. -/
theorem find?_lineEligible (s : State) :
    linesByPriority.find? (lineEligible s) = (lowestOf s.masterReq).bind (lineBehind s) := by
  rw [linesByPriority_eq, List.find?_append, List.find?_append, find?_slaveLines, find?_masterLines (by decide),
    find?_masterLines (by decide), lowestOf_masterReq]
  cases hfirst : ([0, 1] : List Nat).find? s.masterReq with
  | some l => exact (lineBehind_of_find? (by decide) hfirst s).symm
  | none =>
    by_cases h2 : s.masterReq 2 = true
    · obtain ⟨i, hi⟩ := exists_slaveReq_of_masterReq h2
      simp [h2, hi, lineBehind]
    · simp only [h2]
      cases hlast : ([3, 4, 5, 6, 7] : List Nat).find? s.masterReq with
      | some l => exact (lineBehind_of_find? (by decide) hlast s).symm
      | none => rfl

/-- The acceptance of line `l` (R184), by its controller. -/
def acceptEffect (l : Nat) (s : State) : Byte × State := if l < 8 then acceptMaster l s else acceptSlave (l - 8) s

/-- INTA takes the first eligible line. -/
theorem acceptLine_eq (s : State) :
    acceptLine s = (linesByPriority.find? (lineEligible s)).map fun l => acceptEffect l s := by
  rw [find?_lineEligible, acceptLine]
  cases hM : lowestOf s.masterReq with
  | none => rfl
  | some l =>
    have hl : l < 8 := List.mem_range.mp (List.mem_of_find?_eq_some hM)
    by_cases h2 : l = 2
    · subst h2
      cases hS : lowestOf s.slaveReq with
      | none => simp [hS, lineBehind, cascadeLine]
      | some i => simp [hS, lineBehind, cascadeLine, acceptEffect]
    · simp [h2, lineBehind, cascadeLine, acceptEffect, hl]

/-- Settles O50: `acceptLine_eq`, the acceptance written out for each controller. -/
theorem acceptedLineIsFirst : Obligations.AcceptedLineIsFirst := by
  intro s
  rw [acceptLine_eq]
  cases linesByPriority.find? (lineEligible s) with
  | none => rfl
  | some l =>
    by_cases hl : l < 8
    · simp only [Option.map_some, acceptEffect, if_pos hl]
      rfl
    · simp only [Option.map_some, acceptEffect, if_neg hl]
      rfl

end Sys2Proof.Machine
end

section
/-! PROOF. What taking a trap leaves (60_exceptions.md R182 to R189): a vector the table does not route, a trampoline
below 32 and one from 32 up, for an exception and for INTA. -/

namespace Sys2Proof.Machine

/-! ## The return (R188) -/

theorem returnFromTrap_running {t : State} (h : Accepts t) (saved : Bool) : returnFromTrap saved t = t.setIf saved :=
  if_pos ((State.running_iff t).mpr h)

theorem returnFromTrap_stopped {t : State} (h : ¬Accepts t) (saved : Bool) : returnFromTrap saved t = t :=
  if_neg fun hrun => h ((State.running_iff t).mp hrun)

theorem takeTrap_of_deliver {s t : State} {v : Byte} {e : Word} (h : deliver v e (s.setIf false) = .next t) :
    takeTrap v e s = .next (returnFromTrap s.ifFlag t) := by
  rw [takeTrap, h]

/-! ## The three cases of a trap (R185) -/

theorem trampoline_toNat {w : Nat} (hw : w < 48) : (BitVec.ofNat 32 w).toNat = w :=
  Nat.mod_eq_of_lt (by omega)

/-- Not routed: `BAD_DELIVERY`, so `IF` stays cleared. -/
theorem takeTrap_unroutable (s : State) {v : Byte} (h : Unroutable s v.toNat) (e : Word) :
    takeTrap v e s = .next { s with ifFlag := false, fault := s.fault ||| 0x40 } := by
  have hdeliver : deliver v e (s.setIf false) = .next ((s.setIf false).raise .badDelivery) :=
    deliver_unroutable (s := s.setIf false) h e
  have hstop : ¬Accepts ((s.setIf false).raise .badDelivery) := by
    rintro ⟨-, hbad⟩
    rw [State.hasFault_raise] at hbad
    exact absurd hbad (by simp)
  rw [takeTrap_of_deliver hdeliver, returnFromTrap_stopped hstop]
  rfl

/-- The record of the fatal path for trampoline `w`, of a state whose fault address is `a` (R152). -/
def fatalRecord (w : Nat) (e a : Word) : DiagRecord :=
  { name := .index (BitVec.ofNat 5 w), vector := BitVec.ofNat 32 w, errorCode := e,
    faultAddr := if w = 14 then some a else none }

theorem fatal_eq {w : Nat} (hw : w < 32) (e : Word) (s : State) :
    fatal e (BitVec.ofNat 32 w) s =
      { s with halted := true, diagOut := s.diagOut ++ [fatalRecord w e s.faultAddr] } := by
  have hnat := trampoline_toNat (show w < 48 by omega)
  have hname : (BitVec.ofNat 32 w).setWidth 5 = BitVec.ofNat 5 w := BitVec.setWidth_ofNat_of_le (by decide) w
  rw [fatal, diagName_eq, pageFaultAddr_eq, hnat, if_pos hw, hname]
  rfl

/-- Routed below 32: the fatal path, so `IF` stays cleared. -/
theorem takeTrap_fatal (s : State) (hc : configOk s.cfg) {v : Byte} {w : Nat} (hr : RoutesTo s v.toNat w) (hw : w < 32)
    (e : Word) :
    takeTrap v e s = .next { s with
      ifFlag := false, halted := true, diagOut := s.diagOut ++ [fatalRecord w e s.faultAddr] } := by
  obtain ⟨-, -, hdistinct, -⟩ := hc
  have hnat := trampoline_toNat (show w < 48 by omega)
  have hdeliver : deliver v e (s.setIf false) = .next (dispatchVector e (BitVec.ofNat 32 w) (s.setIf false)) :=
    deliver_routed (s := s.setIf false) hdistinct hr e
  rw [takeTrap_of_deliver hdeliver, dispatchVector_cpuFault (.inl (by rwa [hnat])), fatal_eq hw,
    returnFromTrap_stopped (by rintro ⟨hhalt, -⟩; cases hhalt)]
  rfl

/-- A device vector's dispatch neither halts nor fails a delivery. -/
theorem dispatchVector_accepts {s : State} (hacc : Accepts s) {v : Word} (h32 : 32 ≤ v.toNat) (h47 : v.toNat ≤ 47)
    (e : Word) : Accepts (dispatchVector e v s) := by
  have hquiet : Quiet s (dispatchVector e v s) := by
    rcases dispatchVector_cases e v s with ⟨-, h⟩ | ⟨-, -, -, h⟩ | ⟨hv, -⟩
    · rw [h]
      exact (Quiet.keyboardDecode s).then_ports (PortSteps.sendEoi (by decide) _)
    · have hline := vectorLine_toNat h32 h47
      rw [h]
      exact (PortSteps.sendEoi (by omega) s).quiet
    · omega
  obtain ⟨hhalt, hbad⟩ := hacc
  refine ⟨?_, ?_⟩
  · rw [hquiet.only]; exact hhalt
  · exact (hquiet.faultHigh 6 (by decide)).trans hbad

/-- Routed from 32 up: the dispatch with `IF` cleared, and then `IF` as it was. -/
theorem takeTrap_acknowledged (s : State) (hc : configOk s.cfg) (hacc : Accepts s) {v : Byte} {w : Nat}
    (hr : RoutesTo s v.toNat w) (hw : 32 ≤ w) (e : Word) :
    ∃ u, exec (.dispatch e (BitVec.ofNat 32 w)) (s.setIf false) = .next u ∧ u.halted = false ∧
      takeTrap v e s = .next { u with ifFlag := s.ifFlag } := by
  obtain ⟨-, -, hdistinct, -⟩ := hc
  have ⟨_, _, h48, _⟩ := hr
  have hnat := trampoline_toNat (show w < 48 by omega)
  have hdeliver : deliver v e (s.setIf false) = .next (dispatchVector e (BitVec.ofNat 32 w) (s.setIf false)) :=
    deliver_routed (s := s.setIf false) hdistinct hr e
  have hu : Accepts (dispatchVector e (BitVec.ofNat 32 w) (s.setIf false)) :=
    dispatchVector_accepts (s := s.setIf false) hacc (by omega) (by omega) e
  refine ⟨_, exec_accepts (s := s.setIf false) hacc _, hu.1, ?_⟩
  rw [takeTrap_of_deliver hdeliver, returnFromTrap_running hu]
  rfl

/-! ## Exceptions (R182) -/

/-- The state an exception is taken in: the page fault's address counts (log 18). -/
def State.withFaultAddr (v : BitVec 5) (fa : Word) (s : State) : State :=
  { s with faultAddr := if v.toNat = 14 then fa else s.faultAddr }

theorem takeException_accepts {s : State} (hacc : Accepts s) (v : BitVec 5) (e fa : Word) :
    takeException v e fa s = takeTrap (v.setWidth 8) e (s.withFaultAddr v fa) := by
  have hpage : v.setWidth 32 = pageFaultVector ↔ v.toNat = 14 := by
    rw [BitVec.toNat_eq, BitVec.toNat_setWidth_of_le (by decide)]
    rfl
  rw [takeException, if_pos ((State.running_iff s).mpr hacc), State.withFaultAddr]
  simp only [hpage]
  split <;> rfl

theorem exceptionVector_toNat (v : BitVec 5) : (v.setWidth 8).toNat = v.toNat :=
  BitVec.toNat_setWidth_of_le (by decide)

/-- Settles O49: the trap that is not routed, on the exception's vector. -/
theorem badDeliveryCases : Obligations.BadDeliveryCases := by
  intro s v e fa hacc hun
  rw [← exceptionVector_toNat v] at hun
  rw [takeException_accepts hacc, takeTrap_unroutable (s.withFaultAddr v fa) hun]
  rfl

/-- The gates INIT builds route every vector they are built for to its own trampoline (R141, R189). -/
theorem routesTo_of_tableBuilt {s : State} (h : TableBuilt s) {v : Nat} (hv : v < 48) : RoutesTo s v v := by
  obtain ⟨hidtr, hgates⟩ := h
  have hgate := hgates v hv
  exact ⟨hidtr, by rw [hgate, gateAttrOf_packGate], hv, by rw [hgate, gateHandler_packGate]⟩

/-- Settles O48: the fatal trap on the exception's own trampoline. -/
theorem exceptionsAreFatal : Obligations.ExceptionsAreFatal := by
  intro s v e fa hacc hc ht
  have hv : v.toNat < 32 := v.isLt
  have hr : RoutesTo s (v.setWidth 8).toNat v.toNat := by
    rw [exceptionVector_toNat]
    exact routesTo_of_tableBuilt ht (by omega)
  have hrecord : fatalRecord v.toNat e (s.withFaultAddr v fa).faultAddr =
      { name := .index v, vector := v.setWidth 32, errorCode := e,
        faultAddr := if v.toNat = 14 then some fa else none } := by
    rw [fatalRecord, State.withFaultAddr, BitVec.ofNat_toNat, BitVec.ofNat_toNat, BitVec.setWidth_eq]
    split <;> rfl
  rw [takeException_accepts hacc, takeTrap_fatal (s.withFaultAddr v fa) hc hr hv, hrecord]
  rfl

/-! ## INTA (R184) -/

/-- The state INTA's trap is taken in: the acceptance has reached the controllers, and the error code is drawn. -/
def State.withAcceptance (pm ps : Pic) (s : State) : State :=
  { s with picM := pm, picS := ps, draws := s.draws + 1 }

theorem acceptLine_eq_update {s a : State} {v : Byte} (h : acceptLine s = some (v, a)) :
    ∃ pm ps, a = { s with picM := pm, picS := ps } := ⟨_, _, (acceptLine_frame h).1⟩

theorem acceptInterrupt_accepts {s : State} {pm ps : Pic} {v : Byte} (hacc : Accepts s) (hif : s.ifFlag = true)
    (hl : acceptLine s = some (v, { s with picM := pm, picS := ps })) :
    acceptInterrupt s = takeTrap v (Config.freeWord s.draws) (s.withAcceptance pm ps) := by
  rw [acceptInterrupt, (State.running_iff s).mpr hacc, hif, hl]
  rfl

/-- Settles O60: the three cases of a trap, on the acceptance's state and on the exception's. -/
theorem trapDeliveryCases : Obligations.TrapDeliveryCases := by
  refine ⟨?inta, ?exception⟩
  case inta =>
    rintro s a _ v _ hacc hc hif hl rfl rfl
    obtain ⟨pm, ps, rfl⟩ := acceptLine_eq_update hl
    rw [acceptInterrupt_accepts hacc hif hl]
    refine ⟨fun hun => takeTrap_unroutable (s.withAcceptance pm ps) hun _,
      fun w hw hr => takeTrap_fatal (s.withAcceptance pm ps) hc hr hw _,
      fun w hw hr => ?acknowledged⟩
    case acknowledged =>
      rw [← hif]
      exact takeTrap_acknowledged (s.withAcceptance pm ps) hc hacc hr hw _
  case exception =>
    rintro s _ v e fa w hacc hc hr rfl
    rw [← exceptionVector_toNat v] at hr
    rw [takeException_accepts hacc]
    exact ⟨fun hw => takeTrap_fatal (s.withFaultAddr v fa) hc hr hw e,
      fun hw => takeTrap_acknowledged (s.withFaultAddr v fa) hc hacc hr hw e⟩

end Sys2Proof.Machine
end

section
/-! PROOF. The working system (70_reset_and_hazards.md R222) services one line in one INTA step (60_exceptions.md R184,
R185): what the acceptance leaves, what the dispatch of the line's vector does, and the two together. -/

namespace Sys2Proof.Machine

/-! ## Acceptance and acknowledgment of one input (R170, R184) -/

/-- With nothing of equal or higher priority in service, the bit of the input accepted is the lowest. -/
theorem lowestSet_setBit {b : Byte} {i : Nat} (hi : i < 8) (h : ∀ j ≤ i, b.getLsbD j = false) :
    lowestSet (setBit b i) = some i := by
  rw [lowestSet, lowestOf, List.find?_range_eq_some]
  refine ⟨setBit_getLsbD_same hi b, List.mem_range.mpr hi, fun j hj => ?_⟩
  rw [setBit_getLsbD (hj.trans hi), h j hj.le, decide_eq_false hj.ne]
  rfl

/-- The acknowledgment takes out of service exactly the bit the acceptance set. -/
theorem dropLowest_setBit {b : Byte} {i : Nat} (hi : i < 8) (h : ∀ j ≤ i, b.getLsbD j = false) :
    dropLowest (setBit b i) = b := by
  rw [← clear_lowest_eq, lowestSet_setBit hi h]
  exact (clearBit_setBit_eq_iff hi b).mpr (h i le_rfl)

/-! ## The line's dispatch (R151) -/

/-- Everything the dispatch of a line's vector does with both controllers operating: the keyboard read for line 1,
and the acknowledgments in order. -/
theorem dispatch_line {x : State} (hacc : Accepts x) (hM : Operating .master x) (hS : Operating .slave x) {l : Nat}
    (hl : l < 16) (e : Word) :
    ∃ n, exec (.dispatch e (BitVec.ofNat 32 (32 + l))) x = .next { x with
      picM := acknowledged x.picM,
      picS := if l < 8 then x.picS else acknowledged x.picS,
      draws := n,
      charOut := x.charOut ++ (if l = 1 then decodedChars x.cfg (keyboardByte x) else []),
      portTrace := x.portTrace ++ (if l = 1 then [read8 0x60 (keyboardByte x)] else []) ++
        (if 8 ≤ l then [wrote8 0xA0 0x20] else []) ++ [wrote8 0x20 0x20] } := by
  by_cases h1 : l = 1
  · subst h1
    refine ⟨if x.kbdWritten then x.draws else x.draws + 1, (dispatchKeyboard x e hacc).trans ?_⟩
    rw [if_pos hM, if_pos hM]
    simp
  · have hv : (BitVec.ofNat 32 (32 + l)).toNat = 32 + l := trampoline_toNat (by omega)
    have hline : (BitVec.ofNat 8 l).toNat = l := Nat.mod_eq_of_lt (by omega)
    have hother := (dispatchOtherLine x e (BitVec.ofNat 32 (32 + l)) hacc (by omega) (by omega) (by omega)).1
    rw [hv, Nat.add_sub_cancel_left] at hother
    obtain ⟨hlow, hhigh⟩ := sendEoiEveryLine x (BitVec.ofNat 8 l) hacc (by omega)
    rw [hline] at hlow hhigh
    refine ⟨x.draws, hother.trans ?_⟩
    by_cases h8 : l < 8
    · rw [hlow h8, if_pos hM, if_pos hM]
      simp [h1, h8]
    · have h8' : 8 ≤ l := Nat.not_lt.mp h8
      rw [hhigh h8', if_pos hM, if_pos hS, if_pos ⟨hM, hS⟩]
      simp [h1, h8, h8']

/-! ## The request consumed (R184) -/

/-- The request of line `l` taken from its controller, and nothing else. -/
def State.consume (l : Nat) (s : State) : State :=
  { s with picM := { s.picM with irr := if l < 8 then clearBit s.picM.irr l else s.picM.irr },
           picS := { s.picS with irr := if l < 8 then s.picS.irr else clearBit s.picS.irr (l - 8) } }

theorem linePending_consume {k l : Nat} (hk : k < 16) (s : State) :
    linePending (s.consume l) k = (!decide (k = l) && linePending s k) := by
  unfold linePending State.consume
  by_cases hk8 : k < 8 <;> by_cases hl8 : l < 8
  · simp only [if_pos hk8, if_pos hl8, clearBit_getLsbD hk8]
  · have hne : k ≠ l := by omega
    simp [hk8, hl8, hne]
  · have hne : k ≠ l := by omega
    simp [hk8, hl8, hne]
  · have hsub : k - 8 = l - 8 ↔ k = l := by omega
    simp only [if_neg hk8, if_neg hl8, clearBit_getLsbD (show k - 8 < 8 by omega), hsub]

/-! ## One INTA step -/

theorem accepts_of_safe {s : State} (hsafe : Safe s) (hhalt : s.halted = false) : Accepts s := by
  refine ⟨hhalt, ?_⟩
  rw [State.hasFault, show s.fault = 0 from hsafe]
  rfl

theorem linesByPriority_lt : ∀ l ∈ linesByPriority, l < 16 := by decide

theorem formVector_master : ∀ l < 8, formVector masterOffset l = BitVec.ofNat 8 (32 + l) := by decide

theorem formVector_slave : ∀ l < 16, 8 ≤ l → formVector slaveOffset (l - 8) = BitVec.ofNat 8 (32 + l) := by decide

/-- The first controller's registers after line `l` is accepted. -/
def acceptedM (l : Nat) (s : State) : Pic :=
  if l < 8 then { s.picM with irr := clearBit s.picM.irr l, isr := setBit s.picM.isr l }
  else { s.picM with isr := setBit s.picM.isr 2 }

/-- The second controller's registers after line `l` is accepted. -/
def acceptedS (l : Nat) (s : State) : Pic :=
  if l < 8 then s.picS
  else { s.picS with irr := clearBit s.picS.irr (l - 8), isr := setBit s.picS.isr (l - 8) }

/-- The state INTA's trap is taken in when line `l` is accepted. -/
def State.withLine (l : Nat) (s : State) : State := s.withAcceptance (acceptedM l s) (acceptedS l s)

/-- What INTA accepts of controllers remapped to 32 and 40: vector `32 + l` for the first eligible line `l`. -/
theorem acceptLine_remapped {s : State} {l : Nat} (hoffM : s.picM.off = masterOffset) (hoffS : s.picS.off = slaveOffset)
    (hl : l < 16) (hfirst : linesByPriority.find? (lineEligible s) = some l) :
    acceptLine s =
      some (BitVec.ofNat 8 (32 + l), { s with picM := acceptedM l s, picS := acceptedS l s }) := by
  rw [acceptLine_eq, hfirst, Option.map_some, acceptEffect, acceptedM, acceptedS]
  by_cases h8 : l < 8
  · simp only [if_pos h8, acceptMaster, hoffM, formVector_master l h8]
    rfl
  · simp only [if_neg h8, acceptSlave, hoffS, formVector_slave l hl (Nat.not_lt.mp h8)]
    rfl

theorem masterReq_noneInService {s : State} {l : Nat} (h : s.masterReq l = true) :
    ∀ j ≤ l, s.picM.isr.getLsbD j = false := by
  obtain ⟨-, -, -, hnone⟩ := (Pic.requests_iff _ _ _).mp h
  exact hnone

/-- The acknowledgment leaves of the first controller's acceptance the request consumed. -/
theorem acknowledged_acceptedM {s : State} {l : Nat} (h : lineEligible s l = true) :
    acknowledged (acceptedM l s) = (s.consume l).picM := by
  unfold acceptedM State.consume acknowledged
  by_cases h8 : l < 8
  · rw [lineEligible_master h8] at h
    simp only [if_pos h8, dropLowest_setBit h8 (masterReq_noneInService h)]
  · rw [lineEligible_slave (Nat.not_lt.mp h8), Bool.and_eq_true] at h
    simp only [if_neg h8, dropLowest_setBit (show 2 < 8 by decide) (masterReq_noneInService h.1)]

/-- The acknowledgment leaves of the second controller's acceptance the request consumed. -/
theorem acknowledged_acceptedS {s : State} {l : Nat} (hl : l < 16) (h : lineEligible s l = true) :
    (if l < 8 then acceptedS l s else acknowledged (acceptedS l s)) = (s.consume l).picS := by
  unfold acceptedS State.consume acknowledged
  by_cases h8 : l < 8
  · simp only [if_pos h8]
  · rw [lineEligible_slave (Nat.not_lt.mp h8), Bool.and_eq_true, slaveReq_iff] at h
    obtain ⟨-, -, -, -, hnone⟩ := h
    simp only [if_neg h8, dropLowest_setBit (show l - 8 < 8 by omega) hnone]

/-- The whole next state of one INTA step of the working system; `b` is the byte the keyboard answers to line 1. -/
theorem acceptInterrupt_ready {s : State} {l : Nat} (hready : SystemReady s) (hl : l < 16)
    (hfirst : linesByPriority.find? (lineEligible s) = some l) :
    ∃ n b, (s.kbdWritten = true → b = s.kbdData) ∧ acceptInterrupt s = .next { s.consume l with
      draws := n,
      charOut := s.charOut ++ (if l = 1 then decodedChars s.cfg b else []),
      portTrace := s.portTrace ++ (if l = 1 then [read8 0x60 b] else []) ++
        (if 8 ≤ l then [wrote8 0xA0 0x20] else []) ++ [wrote8 0x20 0x20] } := by
  obtain ⟨hc, hsafe, hhalt, hif, htable, hoffM, hoffS, hM, hS⟩ := hready
  have hacc := accepts_of_safe hsafe hhalt
  have heligible : lineEligible s l = true := List.find?_some hfirst
  have hvector : (BitVec.ofNat 8 (32 + l)).toNat = 32 + l := Nat.mod_eq_of_lt (by omega)
  have hroutes : RoutesTo s (BitVec.ofNat 8 (32 + l)).toNat (32 + l) := by
    rw [hvector]
    exact routesTo_of_tableBuilt htable (by omega)
  have hopM : (acceptedM l s).init = .operating := by
    unfold acceptedM
    split <;> exact hM
  have hopS : (acceptedS l s).init = .operating := by
    unfold acceptedS
    split <;> exact hS
  obtain ⟨u, hdispatch, -, htrap⟩ :=
    takeTrap_acknowledged (s.withLine l) hc hacc hroutes (Nat.le_add_right 32 l) (Config.freeWord s.draws)
  obtain ⟨n, hn⟩ := dispatch_line (x := (s.withLine l).setIf false) hacc hopM hopS hl (Config.freeWord s.draws)
  have hu := Host.Outcome.next.inj (hdispatch.symm.trans hn)
  have htaken : acceptInterrupt s = takeTrap (BitVec.ofNat 8 (32 + l)) (Config.freeWord s.draws) (s.withLine l) :=
    acceptInterrupt_accepts hacc hif (acceptLine_remapped hoffM hoffS hl hfirst)
  refine ⟨n, keyboardByte ((s.withLine l).setIf false), fun hkey => ?byte, ?step⟩
  case byte => exact keyboardByte_written (s := (s.withLine l).setIf false) hkey
  case step =>
    rw [htaken, htrap, hu]
    simp only [State.setIf_picM, State.setIf_picS, State.withLine, State.withAcceptance,
      acknowledged_acceptedM heligible, acknowledged_acceptedS hl heligible]
    rfl

/-- Settles O51: the next state of `acceptInterrupt_ready`, read field by field. -/
theorem workingSystemServicesLine : Obligations.WorkingSystemServicesLine := by
  intro s l hready hfirst
  have hl : l < 16 := linesByPriority_lt l (List.mem_of_find?_eq_some hfirst)
  obtain ⟨n, b, hb, hstep⟩ := acceptInterrupt_ready hready hl hfirst
  refine ⟨_, hstep, hready, ?consumed, fun k hk hne => ?others, rfl, rfl, rfl, b, rfl, hb, rfl⟩
  case consumed =>
    refine (linePending_consume hl s).trans ?_
    rw [decide_eq_true rfl]
    rfl
  case others =>
    refine (linePending_consume hk s).trans ?_
    rw [decide_eq_false hne]
    rfl

end Sys2Proof.Machine
end

section
/-! PROOF. RESET (70_reset_and_hazards.md R220, 10_state.md R44) and the order of the two acknowledgments (R225): a
controller's acknowledgment reaches its own registers, `PIC_UNMODELLED` and the trace. -/

namespace Sys2Proof.Machine

/-! ## RESET (R220) -/

/-- With no byte listed every gate is zero (R21). -/
theorem State.gate_of_mem_nil {s : State} (h : s.mem = []) (v : Nat) : s.gate v = 0 := by
  simp [State.gate, h, Memory.readGate, Memory.read, unlistedByte]

/-- Settles O47: the step is `resetStep`, whose fields are those of `State.resetWith` whatever the unspecified
values are. -/
theorem resetFromEveryState : Obligations.ResetFromEveryState := by
  intro s rest hs
  refine ⟨_, step_cons hs, State.gate_of_mem_nil rfl, rfl, rfl, ?vecSet, rfl, rfl, rfl, rfl, rfl, ?cascade, rfl, rfl,
    rfl, rfl, rfl, rfl, rfl⟩
  case vecSet => exact fun v _ => BitVec.getLsbD_zero
  case cascade => exact (inv_resetStep { s with schedule := rest }).irrCascade

/-! ## The two acknowledgments (R225) -/

/-- What an end-of-interrupt to each controller leaves, with the trace `tr`: a controller inside an initialisation
sequence keeps its registers and sets `PIC_UNMODELLED`. -/
def State.bothAcknowledged (tr : List PortRecord) (s : State) : State :=
  { s with
    picM := if Operating .master s then acknowledged s.picM else s.picM,
    picS := if Operating .slave s then acknowledged s.picS else s.picS,
    fault := if Operating .master s ∧ Operating .slave s then s.fault else s.fault ||| 0x20,
    portTrace := tr }

theorem portWrites_eoi_slaveFirst (s : State) :
    portWrites [(pic2Cmd, ocw2Eoi), (pic1Cmd, ocw2Eoi)] s =
      s.bothAcknowledged (s.portTrace ++ [wrote8 pic2Cmd ocw2Eoi, wrote8 pic1Cmd ocw2Eoi]) := by
  rw [portWrites_cons, portWrites_cons, portWrites_nil, portWrite8_eoi_slave, portWrite8_eoi_master]
  simp only [unmodelled_twice, List.append_assoc, List.singleton_append]
  rfl

theorem portWrites_eoi_masterFirst (s : State) :
    portWrites [(pic1Cmd, ocw2Eoi), (pic2Cmd, ocw2Eoi)] s =
      s.bothAcknowledged (s.portTrace ++ [wrote8 pic1Cmd ocw2Eoi, wrote8 pic2Cmd ocw2Eoi]) := by
  rw [portWrites_cons, portWrites_cons, portWrites_nil, portWrite8_eoi_master, portWrite8_eoi_slave]
  simp only [unmodelled_twice, and_comm, List.append_assoc, List.singleton_append]
  rfl

/-- Settles O32: both orders leave `State.bothAcknowledged`, each with the trace of its own order. -/
theorem eoiOrderOnlyInTrace : Obligations.EoiOrderOnlyInTrace := by
  intro s p
  have hslave := portWrites_eoi_slaveFirst s
  have hmaster := portWrites_eoi_masterFirst s
  refine ⟨?state, congrArg State.portTrace hslave, congrArg State.portTrace hmaster⟩
  case state =>
    calc { portWrites [(pic2Cmd, ocw2Eoi), (pic1Cmd, ocw2Eoi)] s with portTrace := p }
      _ = s.bothAcknowledged p := by rw [hslave]; rfl
      _ = { portWrites [(pic1Cmd, ocw2Eoi), (pic2Cmd, ocw2Eoi)] s with portTrace := p } := by rw [hmaster]; rfl

end Sys2Proof.Machine
end
